-- ==== Sys2Proof/Word.lean ====
section
/-! DEFINITION. The word types of the block and their plainest arithmetic (00_scope.md R9). -/

namespace Sys2Proof

/-- A byte of the data space, `u8` of R9. -/
abbrev Byte := BitVec 8

/-- A 32-bit register, CRC accumulator or command word, `u32` of R9. -/
abbrev Word := BitVec 32

/-- A 64-bit register pair, doubleword, product or ROM entry, `u64` of R9. -/
abbrev DWord := BitVec 64

/-- `{hi, lo}` of R9: `hi` in bits 63:32 (R11 for the register pairs). -/
def joinWords (hi lo : Word) : DWord := hi ++ lo

/-- `v[31:0]`. -/
def lowWord (v : DWord) : Word := v.extractLsb' 0 32

/-- `v[63:32]`. -/
def highWord (v : DWord) : Word := v.extractLsb' 32 32

end Sys2Proof
end

