-- ==== Sys2Proof/Config.lean ====
section
/-! DEFINITION. What an instance fixes (00_scope.md R6, R7), the constants of the block, and the free values. -/

namespace Sys2Proof

/-- The defaulted parameters of R6. The fixed ones (24 bytes an iteration, 3 streams, 8-byte doublewords, 64-bit
addresses and lengths) stand in the definitions that use them. -/
structure Params where
  /-- `THRESHOLD`, in bytes. -/
  threshold : Nat
  /-- `MAX_BLOCK_LEN`, in doublewords a stream. -/
  maxBlockLen : Nat
  /-- `ALIGN_LEADING`; the type leaves only the two legal values of R7. -/
  alignLeading : Bool
deriving DecidableEq, Repr

/-- The values R6 takes for the hardware. -/
def Params.default : Params := { threshold := 600, maxBlockLen := 128, alignLeading := true }

/-- `BYTES_PER_ITER` of R6: three interleaved 8-byte streams a loop step. -/
def bytesPerIter : Nat := 24

/-- One past the last data-space address: `ADDR_WIDTH` is 64 (R6, R60). -/
def dataSpaceSize : Nat := 2 ^ 64

/-- `POLY`, the reflected Castagnoli polynomial (R15). -/
def poly : Word := 0x82F63B78#32

/-- The value the ID register reads as (10_state.md R23). -/
def idValue : Word := 0x43524333#32

/-! ### Free values

Constants with no body: nothing can be proved about which value they have. Each is applied to the counter
`State.draws`, which the step that takes a value advances. Log entries 9 and 10. -/

/-- Whether the draw of 20_memory.md R72 is the read fault or the `Ok` outcome. -/
opaque Config.drawFaults : Nat → Bool

/-- The value of the draw's `Ok(v, 0)` (R72). -/
opaque Config.drawWord : Nat → Word

/-- Which access of the command the draw's read fault reports (R72), taken modulo the number of accesses. -/
opaque Config.drawAccess : Nat → Nat

/-- RESULT_LO of a COMPUTE whose buffer overlaps memory with read side effects (R68) or the register window read
through the data port (R61). -/
opaque Config.deviceResult : Nat → Word

end Sys2Proof
end

