-- ==== Sys2Proof/Syntax.lean ====
section
/-! DEFINITION. The commands of CRC32C-PSE: one constructor per row of spec/opcode_table.json (30_encoding.md R82).
A command word has no register and no immediate field (R80, R84), so no constructor has an argument. -/

namespace Sys2Proof

/-- A command (R82). -/
inductive Instr where
  /-- `COMPUTE`, R143: CRC-32C of the buffer `[ADDR, ADDR+LEN)` from CRC_IN. -/
  | compute
  /-- `STEP1`, R102. -/
  | step1
  /-- `STEP2`, R103. -/
  | step2
  /-- `STEP4`, R104. -/
  | step4
  /-- `STEP8`, R105. -/
  | step8
  /-- `CLMUL`, R108. -/
  | clmul
  /-- `ROMRD`, R124. -/
  | romrd
  /-- `COMBINE`, R142. -/
  | combine
deriving DecidableEq, Repr

/-- Every command, in the order of the opcode table. -/
def Instr.all : List Instr := [.compute, .step1, .step2, .step4, .step8, .clmul, .romrd, .combine]

end Sys2Proof
end

