-- ==== Sys2Proof/WellFormed.lean ====
section
/-! DEFINITION. What is well formed before anything runs: commands, instances (00_scope.md R7) and host accesses
(10_state.md R22). -/

namespace Sys2Proof

/-- A command has no operand field (30_encoding.md R80), so each one is well formed. -/
def Instr.wellFormed : Instr → Bool
  | .compute => true
  | .step1 => true
  | .step2 => true
  | .step4 => true
  | .step8 => true
  | .clmul => true
  | .romrd => true
  | .combine => true

/-- The legal parameter ranges of R7; the model refuses an instance outside them. -/
def Params.legal (p : Params) : Bool :=
  decide (24 ≤ p.threshold) && decide (p.threshold ≤ 65535) &&
    decide (1 ≤ p.maxBlockLen) && decide (p.maxBlockLen ≤ 32767)

/-- Why R22 does not admit a host access. -/
inductive AccessProblem where
  /-- The access is not 32 bits wide. -/
  | width
  /-- The address lies outside the 0x100 bytes of the window. -/
  | outsideWindow
  /-- The offset is not a multiple of 4. -/
  | misaligned
deriving DecidableEq, Repr

/-- The offset in the window at `regBase` of an access of `width` bits at bus address `addr`, or why R22 does not
admit it. -/
def admitAccess (regBase addr width : Nat) : Except AccessProblem Nat :=
  if width ≠ 32 then .error .width
  else if addr < regBase ∨ regBase + 0x100 ≤ addr then .error .outsideWindow
  else if (addr - regBase) % 4 ≠ 0 then .error .misaligned
  else .ok (addr - regBase)

end Sys2Proof
end

