-- ==== Sys2Proof/Decode.lean ====
section
/-! DEFINITION. Decoding a command word (30_encoding.md R80, R81), total and rejecting by name; then the encoder and
the disassembler (R82, R89). -/

namespace Sys2Proof

/-- Why a word is illegal (R85). -/
inductive DecodeError where
  /-- `RSV`, bits 31:4, is not 0. -/
  | reservedBits
  /-- `OP`, bits 3:0, is 0x0 or 0x9 to 0xF. -/
  | reservedOp
deriving DecidableEq, Repr

/-- `OP`, bits 3:0 (R80). -/
def opField (w : Word) : BitVec 4 := w.extractLsb' 0 4

/-- `RSV`, bits 31:4 (R80). -/
def rsvField (w : Word) : BitVec 28 := w.extractLsb' 4 28

/-- The decoder of R81, in its order: the reserved bits first, then `OP`. -/
def decodeWord (w : Word) : Except DecodeError Instr :=
  if rsvField w ≠ 0 then .error .reservedBits
  else match (opField w).toNat with
    | 0x1 => .ok .compute
    | 0x2 => .ok .step1
    | 0x3 => .ok .step2
    | 0x4 => .ok .step4
    | 0x5 => .ok .step8
    | 0x6 => .ok .clmul
    | 0x7 => .ok .romrd
    | 0x8 => .ok .combine
    | _ => .error .reservedOp

/-- The one valid word of a command (R82). -/
def encode : Instr → Word
  | .compute => 0x00000001#32
  | .step1 => 0x00000002#32
  | .step2 => 0x00000003#32
  | .step4 => 0x00000004#32
  | .step8 => 0x00000005#32
  | .clmul => 0x00000006#32
  | .romrd => 0x00000007#32
  | .combine => 0x00000008#32

/-- The mnemonic of R82. -/
def Instr.mnemonic : Instr → String
  | .compute => "COMPUTE"
  | .step1 => "STEP1"
  | .step2 => "STEP2"
  | .step4 => "STEP4"
  | .step8 => "STEP8"
  | .clmul => "CLMUL"
  | .romrd => "ROMRD"
  | .combine => "COMBINE"

/-- One hex digit, capital as the spec writes them. -/
def hexDigit (n : Nat) : Char :=
  if n < 10 then Char.ofNat (48 + n) else Char.ofNat (55 + n)

/-- The eight hex digits of a word, highest first. -/
def hexDigits (w : Word) : List Char :=
  [7, 6, 5, 4, 3, 2, 1, 0].map fun j => hexDigit ((w.toNat >>> (4 * j)) % 16)

/-- The disassembler of R89. -/
def disassemble (w : Word) : String :=
  match decodeWord w with
  | .ok i => i.mnemonic
  | .error _ => "CMD.ILLEGAL 0x" ++ String.ofList (hexDigits w)

/-- The command the decoder reads from a word of `nbits` bits, every bit above them 0. A command word is one 32-bit
register write (R86), so a value that does not fit in 32 bits is no command word. -/
def decodeTableWord (nbits w : Nat) : Option Instr :=
  if w % 2 ^ nbits < 2 ^ 32 then
    match decodeWord (BitVec.ofNat 32 (w % 2 ^ nbits)) with
    | .ok i => some i
    | .error _ => none
  else none

end Sys2Proof
end

