-- ==== Sys2Proof/Machine/Cells.lean ====
section
/-! DEFINITION. Sparse data by number: a list of (key, value) pairs by rising key, no value equal to the one an unlisted
key reads as, so that equal contents are equal lists. Used for the data space's bytes and the host's variables. -/

namespace Sys2Proof.Machine

/-- What key `a` reads as, `d` where it is not listed. -/
def Cells.get {w : Nat} (d : BitVec w) : List (Nat × BitVec w) → Nat → BitVec w
  | [], _ => d
  | (k, x) :: l, a => if a = k then x else Cells.get d l a

/-- The list with `v` at key `a`. -/
def Cells.put {w : Nat} (d : BitVec w) : List (Nat × BitVec w) → Nat → BitVec w → List (Nat × BitVec w)
  | [], a, v => if v = d then [] else [(a, v)]
  | (k, x) :: l, a, v =>
    if a < k then (if v = d then (k, x) :: l else (a, v) :: (k, x) :: l)
    else if a = k then (if v = d then l else (a, v) :: l)
    else (k, x) :: Cells.put d l a v

/-- The canonical form: keys strictly rising, no entry that reads as an unlisted key does. -/
abbrev Cells.wf {w : Nat} (d : BitVec w) (l : List (Nat × BitVec w)) : Prop :=
  l.Pairwise (fun x y => x.1 < y.1) ∧ ∀ x ∈ l, x.2 ≠ d

end Sys2Proof.Machine
end

