-- ==== Sys2Proof/Machine/Datapath.lean ====
section
/-! DEFINITION. The engine's datapath: the step functions and the carryless multiplier (40_step_adapter.md), the
combine-constant ROM (41_combine_rom.md) and the combine function (42_slicing_engine.md R142). -/

namespace Sys2Proof.Machine

/-- One turn of the loop of R100: shift right, and add `POLY` when a 1 is shifted out. -/
def bitStep (t : Word) : Word :=
  if t.getLsbD 0 then (t >>> 1) ^^^ poly else t >>> 1

/-- `step1(c, b)` (R100): fold one byte into the accumulator. -/
def step1 (c : Word) (b : Byte) : Word :=
  Nat.iterate bitStep 8 (c ^^^ b.setWidth 32)

/-- `stepk(c, v)` (R101): fold the `k` bytes of `v`, the least significant first. -/
def stepk (k : Nat) (c : Word) (v : BitVec (8 * k)) : Word :=
  (List.range k).foldl (fun t j => step1 t (v.extractLsb' (8 * j) 8)) c

/-- `step2` (R101). -/
def step2 (c : Word) (v : BitVec 16) : Word := stepk 2 c v

/-- `step4` (R101). -/
def step4 (c : Word) (v : BitVec 32) : Word := stepk 4 c v

/-- `step8` (R101). -/
def step8 (c : Word) (v : DWord) : Word := stepk 8 c v

/-- `Z(c) = step8(c, 0)` (R106 (e)): the state after 8 zero bytes. -/
def zeroShift (c : Word) : Word := step8 c 0

/-- `Z^m(c)` (R106 (e)). -/
def zeroShiftBy (m : Nat) (c : Word) : Word := Nat.iterate zeroShift m c

/-- `clmul(a, b)` (R107): the carryless product. -/
def clmul (a b : Word) : DWord :=
  (List.range 32).foldl (fun r j => if b.getLsbD j then r ^^^ (a.setWidth 64 <<< j) else r) 0

/-- `K_hi(n)` (R121). -/
def kHi (n : Nat) : Word := zeroShiftBy (n - 1) 1

/-- `K_lo(n)` (R121). -/
def kLo (n : Nat) : Word := zeroShiftBy (2 * n - 1) 1

/-- Entry `n` of the combine-constant ROM, stored at ROM address `n - 1` (R120, R121). -/
def romEntry (n : Nat) : DWord := joinWords (kHi n) (kLo n)

/-- `K_lo` in a ROM entry: bits 31:0 (R120). -/
def romLo (e : DWord) : Word := lowWord e

/-- `K_hi` in a ROM entry: bits 63:32 (R120). -/
def romHi (e : DWord) : Word := highWord e

/-- Reading the ROM by block length: `MAX_BLOCK_LEN` entries and no more (R120). -/
def romRead (p : Params) (n : Nat) : Option DWord :=
  if 1 ≤ n ∧ n ≤ p.maxBlockLen then some (romEntry n) else none

/-- `step8(0, mul0) ^ step8(0, mul1) ^ a2`, the merge of R142: one doubleword fold per product (90_conflicts.md C5). -/
def mergeProducts (mul0 mul1 : DWord) (a2 : Word) : Word :=
  step8 0 mul0 ^^^ step8 0 mul1 ^^^ a2

/-- `combine(a0, a1, a2, n)` (R142). -/
def combine (a0 a1 a2 : Word) (n : Nat) : Word :=
  mergeProducts (clmul a0 (romLo (romEntry n))) (clmul a1 (romHi (romEntry n))) a2

/-- `crc_ref(c, B)` (R140), byte by byte. A specification function: no hardware implements it. -/
def crcRef (c : Word) (bs : List Byte) : Word := bs.foldl step1 c

end Sys2Proof.Machine
end

