-- ==== Sys2Proof/Machine/Bus.lean ====
section
/-! DEFINITION. The words of the host agent: register names, host statements (30_encoding.md R87) and the regions of the
platform's memory map (00_scope.md R6). Types only; what they mean stands in Registers.lean, HostAgent.lean and
Ops.lean. -/

namespace Sys2Proof.Machine

/-- The registers of the window by name (10_state.md R21). -/
inductive Reg where
  | id | param | cmd | status | irqEn | crcIn | addrLo | addrHi | lenLo | lenHi | opaLo | opaHi | opb
  | resultLo | resultHi | faultAddrLo | faultAddrHi
deriving DecidableEq, Repr

/-- What a readable region of the data space holds. -/
inductive RegionKind where
  /-- Memory free of read side effects, as 20_memory.md R68 assumes. -/
  | plain
  /-- Memory whose reads have side effects (R68). -/
  | sideEffects
  /-- The register window, where the platform maps it into the data space (R61). -/
  | registerWindow
deriving DecidableEq, Repr

/-- A range of data-space addresses that the memory port can read. -/
structure Region where
  base : Nat
  size : Nat
  kind : RegionKind
deriving DecidableEq, Repr

/-- A host variable, by number. -/
abbrev Var := Nat

/-- The host-side expressions of R87. -/
inductive Expr where
  | lit (v : Word)
  | var (x : Var)
  | xor (a b : Expr)
  | and (a b : Expr)
  | or (a b : Expr)
  | shl (a b : Expr)
  | shr (a b : Expr)
deriving DecidableEq, Repr

/-- What the host agent can do next. -/
inductive HostStmt where
  /-- A bus write of `width` bits; the `WR` of R87 is the write of 32 bits at `REG_BASE` plus an offset. -/
  | write (addr width : Nat) (v : Expr)
  /-- A bus read of `width` bits into a host variable; the `RD` of R87. -/
  | read (addr width : Nat) (x : Var)
  /-- `<var> = <expr>` of R87; it touches no block state. -/
  | assign (x : Var) (e : Expr)
  /-- `loop: RD <reg> -> x ; if x[bit] = 1 goto loop`; the `WAIT` of R88 polls bit 0 of STATUS. -/
  | pollWhileSet (addr : Nat) (x : Var) (bit : Nat)
  /-- Wait until `irq = 1`, the `WAIT irq` of 95_test_vectors.md program P2. -/
  | waitIrq
  /-- A store of one byte to the data space, at the moment it is visible to the port (R71 (d), R215). -/
  | store (addr : Nat) (b : Byte)
  /-- A change of the platform's memory map, the change of `Readable` that R72 speaks of. -/
  | remap (regions : List Region)
deriving DecidableEq, Repr

/-- Which agent moves (10_state.md R20). -/
inductive Agent where
  | host
  | engine
  | reset
deriving DecidableEq, Repr

end Sys2Proof.Machine
end

