-- ==== Sys2Proof/Machine/State.lean ====
section
/-! DEFINITION. The state of the block, its parameters, its platform and its host, as plain data, and the state right
after reset (10_state.md, 70_reset_and_hazards.md). INVENTORY.md, heading State, lists every field with its rule. -/

namespace Sys2Proof.Machine

/-- Why the machine stops with a fault. -/
inductive Fault where
  /-- Raised by a host store at an address the data space does not have (20_memory.md R60: 0 to 2^64 - 1). Safe: the
  model stops where no such address exists. Log entry 14. -/
  | outsideDataSpace
deriving DecidableEq, Repr

/-- Why the model refuses. -/
inductive Refusal where
  /-- Raised by a command that has no meaning yet; no command of this model raises it. Safe. -/
  | notModelled (mnemonic : String)
  /-- Raised by every step of an instance outside the ranges of 00_scope.md R7. Safe: R7 asks for it. -/
  | illegalInstance
  /-- Raised by a host access that 10_state.md R22 does not admit. Safe: R22 asks for it. -/
  | notAdmitted (why : AccessProblem)
deriving DecidableEq, Repr

/-- The sequencer `SEQ` (10_state.md R41). -/
inductive Seq where
  | idle
  | busy
deriving DecidableEq, Repr

/-- The stored fields of STATUS (R26); BUSY is not separate storage. -/
structure Status where
  done : Bool
  err : Bool
  ovr : Bool
  errCode : BitVec 4
deriving DecidableEq, Repr

/-- The stored 32-bit registers of the window (R29 to R35). -/
structure Regs where
  crcIn : Word
  addrLo : Word
  addrHi : Word
  lenLo : Word
  lenHi : Word
  opaLo : Word
  opaHi : Word
  opb : Word
  resultLo : Word
  resultHi : Word
  faultAddrLo : Word
  faultAddrHi : Word
deriving DecidableEq, Repr

/-- The command latch `L` (R40). -/
structure Latch where
  cmd : Word
  crcIn : Word
  addr : DWord
  len : DWord
  opa : DWord
  opb : Word
deriving DecidableEq, Repr

/-- The working registers of COMPUTE (R42). `p`, `r`, `n` and `i` are natural numbers, as 00_scope.md R10 has them;
that they fit the widths of R42 is a property of the run. -/
structure Working where
  /-- The running accumulator. -/
  c : Word
  /-- The byte pointer, at most 2^64. -/
  p : Nat
  /-- The remaining length. -/
  r : Nat
  /-- The block length. -/
  n : Nat
  /-- The loop index. -/
  i : Nat
  a0 : Word
  a1 : Word
  a2 : Word
  mul0 : DWord
  mul1 : DWord
deriving DecidableEq, Repr

/-- The bytes of the data space that differ from what an unlisted address reads as, by rising address. -/
abbrev Memory := List Host.Cell

/-- The data space as the memory port sees it (20_memory.md R60, R64): its bytes and the platform's memory map. -/
structure DataSpace where
  bytes : Memory
  regions : List Region
deriving DecidableEq, Repr

/-- The host agent (10_state.md R20): the statements it has still to do and its variables. -/
structure HostAgent where
  program : List HostStmt
  vars : List (Nat × Word)
deriving DecidableEq, Repr

/-- The whole machine. -/
structure State where
  /-- The instance's parameters (00_scope.md R6); no step writes them. -/
  params : Params
  /-- `REG_BASE` (R6, OPEN); no step writes it. -/
  regBase : Nat
  /-- CRC_IN, ADDR, LEN, OPA, OPB, RESULT, FAULT_ADDR (10_state.md R29 to R35). -/
  regs : Regs
  /-- IRQ_EN.EN (R28). -/
  irqEn : Bool
  /-- STATUS (R26). -/
  status : Status
  /-- SEQ (R41). -/
  seq : Seq
  /-- The command latch (R40). -/
  latch : Latch
  /-- The working registers (R42). -/
  work : Working
  /-- The data space (20_memory.md R60, R64). -/
  space : DataSpace
  /-- The model's own: since acceptance, a byte of the latched buffer was written or its readability changed (R72). -/
  disturbed : Bool
  /-- The model's own: how many free values have been taken. -/
  draws : Nat
  /-- The host agent. -/
  host : HostAgent
  /-- The model's own: which agents move next (R44, R189). When the list is at its end, the engine moves while BUSY,
  then the host while it has statements. -/
  turns : List Agent
deriving DecidableEq, Repr

/-- What one step or one meaning answers. -/
abbrev Result := Host.Outcome State Fault Refusal

/-- An error of a command (60_exceptions.md R181); a read fault carries the start address of the access (R185). -/
inductive CmdError where
  | illegalCmd
  | badBlockLen
  | range
  | readFault (a : DWord)
deriving DecidableEq, Repr

/-- What a command ends with (10_state.md R44). -/
inductive CmdOutcome where
  | ok (lo hi : Word)
  | err (e : CmdError)
deriving DecidableEq, Repr

/-- The registers after reset (R47). -/
def Regs.reset : Regs :=
  { crcIn := 0, addrLo := 0, addrHi := 0, lenLo := 0, lenHi := 0, opaLo := 0, opaHi := 0, opb := 0,
    resultLo := 0, resultHi := 0, faultAddrLo := 0, faultAddrHi := 0 }

/-- STATUS after reset (R47). -/
def Status.reset : Status := { done := false, err := false, ovr := false, errCode := 0 }

/-- The latch after reset. DESIGN CHOICE, unsafe: R47 leaves it unspecified and says it is never read while IDLE. Log
entry 3. -/
def Latch.reset : Latch := { cmd := 0, crcIn := 0, addr := 0, len := 0, opa := 0, opb := 0 }

/-- The working registers after reset. DESIGN CHOICE, unsafe, as for the latch. Log entry 3. -/
def Working.reset : Working :=
  { c := 0, p := 0, r := 0, n := 0, i := 0, a0 := 0, a1 := 0, a2 := 0, mul0 := 0, mul1 := 0 }

/-- The data space of the reset state: nothing listed, and one plain region over all of it. DESIGN CHOICE, unsafe: the
platform's `Readable` is OPEN (R6). Log entries 5 and 6. -/
def DataSpace.reset : DataSpace :=
  { bytes := [], regions := [{ base := 0, size := dataSpaceSize, kind := .plain }] }

/-- The machine right after reset (R47), with the default parameters (00_scope.md R6), no host statement and no turn
scheduled. -/
def State.reset : State :=
  { params := Params.default, regBase := 0, regs := Regs.reset, irqEn := false, status := Status.reset, seq := .idle,
    latch := Latch.reset, work := Working.reset, space := DataSpace.reset, disturbed := false, draws := 0,
    host := { program := [], vars := [] }, turns := [] }

end Sys2Proof.Machine
end

