-- ==== Sys2Proof/Machine/Flags.lean ====
section
/-! DEFINITION. The STATUS register: its word, its error codes, its write, its setting and clearing, and the interrupt
output (10_state.md R26, R27, R39; 60_exceptions.md R181). -/

namespace Sys2Proof.Machine

/-- The error code of R181. -/
def CmdError.code : CmdError → BitVec 4
  | .illegalCmd => 1
  | .badBlockLen => 2
  | .range => 3
  | .readFault _ => 4

/-- BUSY: 1 exactly while `SEQ = BUSY` (R26). -/
def State.isBusy (s : State) : Bool := decide (s.seq = .busy)

/-- STATUS as a host reads it (R26): reserved, ERRCODE, OVR, ERR, DONE, BUSY from bit 31 down. -/
def State.statusWord (s : State) : Word :=
  (0 : BitVec 24) ++ s.status.errCode ++ BitVec.ofBool s.status.ovr ++ BitVec.ofBool s.status.err ++
    BitVec.ofBool s.status.done ++ BitVec.ofBool s.isBusy

/-- A host write of `w` to STATUS (R27): bits 1, 2 and 3 clear, nothing sets. -/
def Status.writeOneToClear (w : Word) (st : Status) : Status :=
  { done := st.done && !w.getLsbD 1
    err := st.err && !w.getLsbD 2
    ovr := st.ovr && !w.getLsbD 3
    errCode := if w.getLsbD 2 then 0 else st.errCode }

/-- What acceptance does to STATUS (R43): OVR stays. -/
def Status.accept (st : Status) : Status :=
  { st with done := false, err := false, errCode := 0 }

/-- What a dropped CMD write does to STATUS (R45). -/
def Status.overrun (st : Status) : Status := { st with ovr := true }

/-- What an error report does to STATUS (R44, R186), beyond DONE. -/
def Status.report (e : CmdError) (st : Status) : Status := { st with err := true, errCode := e.code }

/-- What every completion does to STATUS (R44). -/
def Status.complete (st : Status) : Status := { st with done := true }

/-- The interrupt output `irq = STATUS.DONE & IRQ_EN.EN` (R39). -/
def State.irq (s : State) : Bool := s.status.done && s.irqEn

end Sys2Proof.Machine
end

