-- ==== Sys2Proof/Machine/Operands.lean ====
section
/-! DEFINITION. Operand forms: what each command reads from the latch (30_encoding.md R83, R84), and the register pairs
of 00_scope.md R11. Nothing is sign-extended or scaled. -/

namespace Sys2Proof.Machine

/-- `R(ADDR)` (R11, R30). -/
def Regs.addr (r : Regs) : DWord := joinWords r.addrHi r.addrLo

/-- `R(LEN)` (R11, R31). -/
def Regs.len (r : Regs) : DWord := joinWords r.lenHi r.lenLo

/-- `R(OPA)` (R11, R32). -/
def Regs.opa (r : Regs) : DWord := joinWords r.opaHi r.opaLo

/-- `R(RESULT)` (R11, R34). -/
def Regs.result (r : Regs) : DWord := joinWords r.resultHi r.resultLo

/-- `R(FAULT_ADDR)` (R11, R35). -/
def Regs.faultAddr (r : Regs) : DWord := joinWords r.faultAddrHi r.faultAddrLo

/-- `L.opa[7:0]`, the data of STEP1. -/
def Latch.opa8 (l : Latch) : BitVec 8 := l.opa.extractLsb' 0 8

/-- `L.opa[15:0]`, the data of STEP2. -/
def Latch.opa16 (l : Latch) : BitVec 16 := l.opa.extractLsb' 0 16

/-- `L.opa[31:0]`, the data of STEP4, `a` of CLMUL, `a1` of COMBINE. -/
def Latch.opa32 (l : Latch) : BitVec 32 := l.opa.extractLsb' 0 32

/-- `L.opa[63:32]`, `a2` of COMBINE. -/
def Latch.opaHigh (l : Latch) : BitVec 32 := l.opa.extractLsb' 32 32

/-- `n = L.opb`, compared as an unsigned 32-bit number. -/
def Latch.blockLen (l : Latch) : Nat := l.opb.toNat

/-- Whether address `a` lies in the latched buffer `[L.addr, L.addr + L.len)`, computed exactly. -/
def Latch.covers (l : Latch) (a : Nat) : Bool :=
  decide (l.addr.toNat ≤ a) && decide (a < l.addr.toNat + l.len.toNat)

end Sys2Proof.Machine
end

