-- ==== Sys2Proof/Machine/Ops.lean ====
section
/-! DEFINITION. The named operations over the data space and the block's state: reading through the memory port
(00_scope.md R12, 20_memory.md R64), host stores and map changes (20_memory.md R72), acceptance, completion, the error
report and its acknowledgement, the dropped command (10_state.md R43 to R45) and reset (70_reset_and_hazards.md R210). -/

namespace Sys2Proof.Machine

/-! ### The data space -/

/-- What a byte of the data space that is not listed reads as. DESIGN CHOICE, unsafe: the spec gives the data space no
contents of its own. Log entry 5. -/
def unlistedByte : Byte := 0

/-- The canonical form of the data space's bytes: `Cells.wf`, every address one of the 64-bit space (R60). -/
abbrev Memory.wf (m : Memory) : Prop := Cells.wf unlistedByte m ∧ ∀ x ∈ m, x.1 < dataSpaceSize

/-- The byte at address `a`. -/
def DataSpace.byteAt (d : DataSpace) (a : Nat) : Byte := Cells.get unlistedByte d.bytes a

/-- `bytes(a, m)` of 42_slicing_engine.md R141: the `m` bytes at `a, a+1, ..., a+m-1`. -/
def DataSpace.bytesAt (d : DataSpace) (a m : Nat) : List Byte := (List.range' a m).map d.byteAt

/-- The data space with byte `b` at address `a`. -/
def DataSpace.writeByte (d : DataSpace) (a : Nat) (b : Byte) : DataSpace :=
  { d with bytes := Cells.put unlistedByte d.bytes a b }

/-- Whether the region holds address `a`. -/
def Region.contains (r : Region) (a : Nat) : Bool := decide (r.base ≤ a) && decide (a < r.base + r.size)

/-- `Readable(a)` (00_scope.md R6, 20_memory.md R64). -/
def DataSpace.readable (d : DataSpace) (a : Nat) : Bool := d.regions.any fun r => r.contains a

/-- Whether a read of address `a` meets a region with read side effects (R68) or the register window (R61). -/
def DataSpace.device (d : DataSpace) (a : Nat) : Bool :=
  d.regions.any fun r => decide (r.kind ≠ .plain) && r.contains a

/-- Whether all of `a, ..., a+k-1` satisfy `Readable` (R64). -/
def DataSpace.readableRange (d : DataSpace) (a k : Nat) : Bool := (List.range' a k).all d.readable

/-- Whether some address of `[a, a+m)` meets such a device region: one of them overlaps the range. -/
def DataSpace.deviceIn (d : DataSpace) (a m : Nat) : Bool :=
  d.regions.any fun r =>
    decide (r.kind ≠ .plain) && decide (max a r.base < min (a + m) (r.base + r.size))

/-- The sum of R12, `byte_j << (8*j)`: the byte at the lowest address comes first (R62). -/
def leValue : List Byte → Nat
  | [] => 0
  | b :: bs => b.toNat + 256 * leValue bs

/-- `MemRead(a, k)` (R12): the little-endian value, or a read fault at `a` (R64). No access needs alignment (R65). -/
def DataSpace.memRead (d : DataSpace) (a k : Nat) : Except Nat (BitVec (8 * k)) :=
  if d.readableRange a k then .ok (BitVec.ofNat (8 * k) (leValue (d.bytesAt a k))) else .error a

/-- The addresses where what a region map says can change: the ends of its regions. -/
def regionEnds (rs : List Region) : List Nat := rs.flatMap fun r => [r.base, r.base + r.size]

/-- Whether two data spaces agree, at every address of `[a, a+m)`, on what is readable and what is a device. It is
enough to look at `a` and at the ends of regions, since nothing changes between them. -/
def DataSpace.sameMapOn (d e : DataSpace) (a m : Nat) : Bool :=
  (a :: (regionEnds d.regions ++ regionEnds e.regions)).all fun x =>
    !(decide (a ≤ x) && decide (x < a + m)) ||
      (d.readable x == e.readable x && d.device x == e.device x)

/-! ### Host accesses to the data space -/

/-- A host store that becomes visible to the port. While BUSY, one into the latched buffer breaks buffer stability
(20_memory.md R72, 70_reset_and_hazards.md R214), whatever the byte written. An address outside the space faults.
DESIGN CHOICE, unsafe there: a store at an address that the map gives the register window or a device is a plain byte of the
data space too, and reaches no register and no device, since what it does is the platform's matter (20_memory.md R60, R61).
Log entry 21. -/
def hostStore (a : Nat) (b : Byte) (s : State) : Result :=
  if a < dataSpaceSize then
    .next { s with
      space := s.space.writeByte a b
      disturbed := s.disturbed || (s.isBusy && s.latch.covers a) }
  else .fault .outsideDataSpace

/-- A change of the platform's map. While BUSY, one that changes the latched buffer breaks R72. -/
def hostRemap (rs : List Region) (s : State) : State :=
  { s with
    space := { s.space with regions := rs }
    disturbed := s.disturbed ||
      (s.isBusy && !s.space.sameMapOn { s.space with regions := rs } s.latch.addr.toNat s.latch.len.toNat) }

/-! ### Acceptance, drop, completion -/

/-- Acceptance of the word `v` (10_state.md R43): every operand is latched, the last report is cleared, SEQ is BUSY. -/
def acceptCmd (v : Word) (s : State) : State :=
  { s with
    latch := { cmd := v, crcIn := s.regs.crcIn, addr := s.regs.addr, len := s.regs.len, opa := s.regs.opa,
               opb := s.regs.opb }
    status := s.status.accept
    seq := .busy
    disturbed := false }

/-- A CMD write while BUSY (R45): OVR and nothing else. -/
def dropCmd (s : State) : State := { s with status := s.status.overrun }

/-- A host write to CMD (R25). -/
def submitCmd (v : Word) (s : State) : State := if s.isBusy then dropCmd s else acceptCmd v s

/-- What every completion does last (R44): DONE, and SEQ to IDLE. DESIGN CHOICE, unsafe for the latch alone: the latch keeps
the completed command's values while IDLE, where the spec allows any value and never uses it (10_state.md R40,
93_implementation_defined.md S5). Log entry 4. -/
def finish (s : State) : State :=
  { s with status := s.status.complete, seq := .idle, disturbed := false }

/-- RESULT as a completion without error writes it, both halves (R34, R44). -/
def Regs.withResult (lo hi : Word) (r : Regs) : Regs := { r with resultLo := lo, resultHi := hi }

/-- FAULT_ADDR as a completion that reports READ_FAULT writes it (R35, R44). -/
def Regs.withFaultAddr (a : DWord) (r : Regs) : Regs :=
  { r with faultAddrLo := lowWord a, faultAddrHi := highWord a }

/-- The error report (60_exceptions.md R186), the block's form of taking an exception: no control is transferred (R180),
STATUS says the code, and FAULT_ADDR is written for a read fault alone. -/
def reportError (e : CmdError) (s : State) : State :=
  { s with
    status := s.status.report e
    regs := match e with
      | .readFault a => s.regs.withFaultAddr a
      | .illegalCmd => s.regs
      | .badBlockLen => s.regs
      | .range => s.regs }

/-- Completion with the outcome of the command (R44). -/
def complete (o : CmdOutcome) (s : State) : State :=
  match o with
  | .ok lo hi => finish { s with regs := s.regs.withResult lo hi }
  | .err e => finish (reportError e s)

/-- The acknowledgement of a report, the block's form of returning from an exception (60_exceptions.md R192): a host write
of `w` to STATUS (R27). -/
def acknowledge (w : Word) (s : State) : State := { s with status := s.status.writeOneToClear w }

/-! ### Reset -/

/-- The reset input (70_reset_and_hazards.md R210, R211). Parameters, platform, data space, host and schedule are not the
block's, and stay. The latch and the working registers take the values log entry 3 names. -/
def blockReset (s : State) : State :=
  { s with
    regs := Regs.reset
    irqEn := false
    status := Status.reset
    seq := .idle
    latch := Latch.reset
    work := Working.reset
    disturbed := false }

end Sys2Proof.Machine
end

