-- ==== Sys2Proof/Machine/CombineRom.lean ====
section
/-! DEFINITION. The meanings of ROMRD (41_combine_rom.md R124) and COMBINE (42_slicing_engine.md R142). -/

namespace Sys2Proof.Machine

/-- ROMRD (R124): the entry for block length `n = L.opb`, or BAD_BLOCK_LEN where the ROM has none (R183). -/
def execRomrd (s : State) : Result :=
  .next (complete
    (match romRead s.params s.latch.blockLen with
      | some e => .ok (romLo e) (romHi e)
      | none => .err .badBlockLen) s)

/-- COMBINE (R142): merge the three accumulators over block length `n = L.opb`, or BAD_BLOCK_LEN (R183). -/
def execCombine (s : State) : Result :=
  .next (complete
    (match romRead s.params s.latch.blockLen with
      | some _ => .ok (combine s.latch.crcIn s.latch.opa32 s.latch.opaHigh s.latch.blockLen) 0
      | none => .err .badBlockLen) s)

end Sys2Proof.Machine
end

