-- ==== Sys2Proof/Machine/Slicing.lean ====
section
/-! DEFINITION. COMPUTE (42_slicing_engine.md R143 to R162): the sequence over the working registers, its list of
accesses, the draw of 20_memory.md R72, and the meaning. -/

namespace Sys2Proof.Machine

/-! ### The sequence of R143 -/

/-- Fold the `k` bytes at `p` and advance by `k`: `c <- stepk(c, Rd(p, k)) ; p <- p + k ; r <- r - k`. -/
def foldAt (d : DataSpace) (k : Nat) (w : Working) : Except Nat Working := do
  let v ← d.memRead w.p k
  pure { w with c := stepk k w.c v, p := w.p + k, r := w.r - k }

/-- One line of leading alignment (R148): if bit `b` of `p` is 1 and `r >= 2^b`, fold `2^b` bytes. -/
def alignBit (d : DataSpace) (b : Nat) (w : Working) : Except Nat Working :=
  if w.p.testBit b ∧ 2 ^ b ≤ w.r then foldAt d (2 ^ b) w else pure w

/-- Leading alignment (R148): 1, then 2, then 4 bytes. -/
def alignLeading (d : DataSpace) (w : Working) : Except Nat Working := do
  let w ← alignBit d 0 w
  let w ← alignBit d 1 w
  alignBit d 2 w

/-- The block length of an iteration (R150). -/
def blockLenFor (p : Params) (r : Nat) : Nat := min p.maxBlockLen (r / bytesPerIter)

/-- Step `i` of the three-stream fold (R151): stream 0, then stream 1, then stream 2 (R149). -/
def streamStep (d : DataSpace) (w : Working) (i : Nat) : Except Nat Working := do
  let v0 ← d.memRead (w.p + 8 * i) 8
  let v1 ← d.memRead (w.p + 8 * (w.n + i)) 8
  let v2 ← d.memRead (w.p + 8 * (2 * w.n + i)) 8
  pure { w with i := i, a0 := step8 w.a0 v0, a1 := step8 w.a1 v1, a2 := step8 w.a2 v2 }

/-- The combine and the advance (R152, R153): the two products, their merge into `c`, then `p` and `r` by `24*n`. -/
def combineStep (w : Working) : Working :=
  let m0 := clmul w.a0 (romLo (romEntry w.n))
  let m1 := clmul w.a1 (romHi (romEntry w.n))
  { w with
    mul0 := m0, mul1 := m1, c := mergeProducts m0 m1 w.a2
    p := w.p + bytesPerIter * w.n, r := w.r - bytesPerIter * w.n }

/-- What an iteration sets before it reads (R150, R151). -/
def iterStart (p : Params) (w : Working) : Working :=
  { w with n := blockLenFor p w.r, a0 := w.c, a1 := 0, a2 := 0 }

/-- One slicing iteration (R150 to R153). -/
def sliceIter (p : Params) (d : DataSpace) (w : Working) : Except Nat Working := do
  let w ← (List.range (blockLenFor p w.r)).foldlM (streamStep d) (iterStart p w)
  pure (combineStep w)

/-- The slicing loop (R154): iterations while `r >= THRESHOLD`, at most `fuel` of them. -/
def sliceLoop (p : Params) (d : DataSpace) : Nat → Working → Except Nat Working
  | 0, w => pure w
  | fuel + 1, w => if p.threshold ≤ w.r then sliceIter p d w >>= sliceLoop p d fuel else pure w

/-- The sliced part of R143: alignment and slicing when the full length reaches THRESHOLD (R147), at most
`L.len div 24` iterations (R154). -/
def slicedPart (p : Params) (d : DataSpace) (w : Working) : Except Nat Working :=
  if p.threshold ≤ w.r then do
    let w ← if p.alignLeading then alignLeading d w else pure w
    sliceLoop p d (w.r / bytesPerIter) w
  else pure w

/-- The 8-byte part of the tail (R155), at most `fuel` folds. -/
def tailWide (d : DataSpace) : Nat → Working → Except Nat Working
  | 0, w => pure w
  | fuel + 1, w => if 8 ≤ w.r then foldAt d 8 w >>= tailWide d fuel else pure w

/-- One line of the small part of the tail (R156). -/
def tailOne (d : DataSpace) (k : Nat) (w : Working) : Except Nat Working :=
  if k ≤ w.r then foldAt d k w else pure w

/-- The tail (R155, R156): 8 bytes while they last, then 4, 2 and 1. -/
def tail (d : DataSpace) (w : Working) : Except Nat Working := do
  let w ← tailWide d (w.r / 8) w
  let w ← tailOne d 4 w
  let w ← tailOne d 2 w
  tailOne d 1 w

/-- The sequence of R143 after the range check: the working registers at its end, or the address of the read that
faulted (R158). -/
def computeRun (p : Params) (d : DataSpace) (w : Working) : Except Nat Working := do
  let w ← slicedPart p d w
  tail d w

/-- The working registers as COMPUTE starts (R144). The others keep what they hold until they are set. -/
def computeStart (l : Latch) (w : Working) : Working :=
  { w with c := l.crcIn, p := l.addr.toNat, r := l.len.toNat }

/-! ### The access sequence of R149

`(address, width)` pairs, from `p`, `r` and the parameters alone. Each part answers its accesses and the `p` and `r` it
leaves. -/

/-- The accesses of a part, and the pointer and length after it. -/
structure Accesses where
  list : List (Nat × Nat)
  p : Nat
  r : Nat
deriving DecidableEq, Repr

/-- One access of width `k` when `cond` holds. -/
def Accesses.one (cond : Bool) (k : Nat) (x : Accesses) : Accesses :=
  if cond then { list := x.list ++ [(x.p, k)], p := x.p + k, r := x.r - k } else x

/-- The accesses of leading alignment (R148). -/
def Accesses.align (x : Accesses) : Accesses :=
  let x := x.one (x.p.testBit 0 && decide (1 ≤ x.r)) 1
  let x := x.one (x.p.testBit 1 && decide (2 ≤ x.r)) 2
  x.one (x.p.testBit 2 && decide (4 ≤ x.r)) 4

/-- The accesses of one iteration of block length `n` at `p` (R149): by rising `i`, stream 0, 1, 2. -/
def iterAccesses (p n : Nat) : List (Nat × Nat) :=
  (List.range n).flatMap fun i => [(p + 8 * i, 8), (p + 8 * (n + i), 8), (p + 8 * (2 * n + i), 8)]

/-- The accesses of the slicing loop (R154). -/
def Accesses.slices (ps : Params) : Nat → Accesses → Accesses
  | 0, x => x
  | fuel + 1, x =>
    if ps.threshold ≤ x.r then
      let n := blockLenFor ps x.r
      Accesses.slices ps fuel
        { list := x.list ++ iterAccesses x.p n, p := x.p + bytesPerIter * n, r := x.r - bytesPerIter * n }
    else x

/-- The accesses of the sliced part (R147, R148, R154). -/
def Accesses.sliced (ps : Params) (x : Accesses) : Accesses :=
  if ps.threshold ≤ x.r then
    let y := if ps.alignLeading then x.align else x
    Accesses.slices ps (y.r / bytesPerIter) y
  else x

/-- The 8-byte accesses of the tail (R155). -/
def Accesses.wide : Nat → Accesses → Accesses
  | 0, x => x
  | fuel + 1, x => if 8 ≤ x.r then Accesses.wide fuel (x.one true 8) else x

/-- The accesses of the tail (R155, R156). -/
def Accesses.tail (x : Accesses) : Accesses :=
  let x := Accesses.wide (x.r / 8) x
  let x := x.one (decide (4 ≤ x.r)) 4
  let x := x.one (decide (2 ≤ x.r)) 2
  x.one (decide (1 ≤ x.r)) 1

/-- `AccessSeq(addr, len)` (R149). -/
def accessSeq (ps : Params) (addr len : Nat) : List (Nat × Nat) :=
  (Accesses.tail (Accesses.sliced ps { list := [], p := addr, r := len })).list

/-! ### The meaning -/

/-- The draw of 20_memory.md R72 when the buffer was not stable: `Ok(v, 0)` for a free `v`, or READ_FAULT at a free one of
the command's accesses. Log entry 9. -/
def drawOutcome (ps : Params) (l : Latch) (k : Nat) : CmdOutcome :=
  let accs := accessSeq ps l.addr.toNat l.len.toNat
  match accs[Config.drawAccess k % accs.length]? with
  | some a => if Config.drawFaults k then .err (.readFault (BitVec.ofNat 64 a.1)) else .ok (Config.drawWord k) 0
  | none => .ok (Config.drawWord k) 0

/-- The state with one more free value taken. -/
def tookDraw (s : State) : State := { s with draws := s.draws + 1 }

/-- The result of a COMPUTE that ran to its end at `w`: `Ok(c, 0)` (R157), or a free RESULT_LO when the buffer overlaps
memory with read side effects or the register window (R68, R61; log entry 10). -/
def computeDone (w : Working) (s : State) : State :=
  if s.space.deviceIn s.latch.addr.toNat s.latch.len.toNat then
    complete (.ok (Config.deviceResult s.draws) 0) (tookDraw { s with work := w })
  else complete (.ok w.c 0) { s with work := w }

/-- COMPUTE (R143): the range check (R146), then the sequence over the latched operands. -/
def execCompute (s : State) : Result :=
  if dataSpaceSize < s.latch.addr.toNat + s.latch.len.toNat then .next (complete (.err .range) s)
  else if s.disturbed then .next (complete (drawOutcome s.params s.latch s.draws) (tookDraw s))
  else match computeRun s.params s.space (computeStart s.latch s.work) with
    | .ok w => .next (computeDone w s)
    | .error a => .next (complete (.err (.readFault (BitVec.ofNat 64 a))) s)

end Sys2Proof.Machine
end

