-- ==== Sys2Proof/Machine/StepAdapter.lean ====
section
/-! DEFINITION. The meanings of STEP1, STEP2, STEP4, STEP8 and CLMUL (40_step_adapter.md). A meaning is the completion
step of its command (10_state.md R44): the result from the latch, then the report. -/

namespace Sys2Proof.Machine

/-- STEP1 (R102). -/
def execStep1 (s : State) : Result :=
  .next (complete (.ok (step1 s.latch.crcIn s.latch.opa8) 0) s)

/-- STEP2 (R103). -/
def execStep2 (s : State) : Result :=
  .next (complete (.ok (step2 s.latch.crcIn s.latch.opa16) 0) s)

/-- STEP4 (R104). -/
def execStep4 (s : State) : Result :=
  .next (complete (.ok (step4 s.latch.crcIn s.latch.opa32) 0) s)

/-- STEP8 (R105). -/
def execStep8 (s : State) : Result :=
  .next (complete (.ok (step8 s.latch.crcIn s.latch.opa) 0) s)

/-- CLMUL (R108). -/
def execClmul (s : State) : Result :=
  .next (complete (.ok (lowWord (clmul s.latch.opa32 s.latch.opb)) (highWord (clmul s.latch.opa32 s.latch.opb))) s)

end Sys2Proof.Machine
end

