-- ==== Sys2Proof/Machine/Dispatch.lean ====
section
/-! DEFINITION. One arm per command: the completion step of each (10_state.md R44, 30_encoding.md R81). -/

namespace Sys2Proof.Machine

def exec (i : Instr) (s : State) : Host.Outcome State Fault Refusal :=
  match i with
  | .compute => Sys2Proof.Machine.execCompute s
  | .step1 => Sys2Proof.Machine.execStep1 s
  | .step2 => Sys2Proof.Machine.execStep2 s
  | .step4 => Sys2Proof.Machine.execStep4 s
  | .step8 => Sys2Proof.Machine.execStep8 s
  | .clmul => Sys2Proof.Machine.execClmul s
  | .romrd => Sys2Proof.Machine.execRomrd s
  | .combine => Sys2Proof.Machine.execCombine s

end Sys2Proof.Machine
end

