-- ==== Sys2Proof/Machine/Registers.lean ====
section
/-! DEFINITION. The register window (10_state.md R21 to R35): offsets, reads and writes. -/

namespace Sys2Proof.Machine

/-- The byte offset of a register from REG_BASE (R21). -/
def Reg.offset : Reg → Nat
  | .id => 0x00
  | .param => 0x04
  | .cmd => 0x08
  | .status => 0x0C
  | .irqEn => 0x10
  | .crcIn => 0x14
  | .addrLo => 0x18
  | .addrHi => 0x1C
  | .lenLo => 0x20
  | .lenHi => 0x24
  | .opaLo => 0x28
  | .opaHi => 0x2C
  | .opb => 0x30
  | .resultLo => 0x34
  | .resultHi => 0x38
  | .faultAddrLo => 0x3C
  | .faultAddrHi => 0x40

/-- The registers in the order of their offsets. -/
def Reg.all : List Reg :=
  [.id, .param, .cmd, .status, .irqEn, .crcIn, .addrLo, .addrHi, .lenLo, .lenHi, .opaLo, .opaHi, .opb, .resultLo,
    .resultHi, .faultAddrLo, .faultAddrHi]

/-- The register at an offset; none at a reserved one (R21, R22). -/
def Reg.atOffset (off : Nat) : Option Reg := Reg.all.find? fun r => r.offset == off

/-- PARAM (R24): ALIGN_LEADING, MAX_BLOCK_LEN, THRESHOLD from bit 31 down. -/
def Params.word (p : Params) : Word :=
  BitVec.ofBool p.alignLeading ++ BitVec.ofNat 15 p.maxBlockLen ++ BitVec.ofNat 16 p.threshold

/-- What a register reads as. CMD reads 0 (R25), reserved bits read 0 (R22), and no read has a side effect (R22). -/
def Reg.read (r : Reg) (s : State) : Word :=
  match r with
  | .id => idValue
  | .param => Params.word s.params
  | .cmd => 0
  | .status => s.statusWord
  | .irqEn => (BitVec.ofBool s.irqEn).setWidth 32
  | .crcIn => s.regs.crcIn
  | .addrLo => s.regs.addrLo
  | .addrHi => s.regs.addrHi
  | .lenLo => s.regs.lenLo
  | .lenHi => s.regs.lenHi
  | .opaLo => s.regs.opaLo
  | .opaHi => s.regs.opaHi
  | .opb => s.regs.opb
  | .resultLo => s.regs.resultLo
  | .resultHi => s.regs.resultHi
  | .faultAddrLo => s.regs.faultAddrLo
  | .faultAddrHi => s.regs.faultAddrHi

/-- A host write of `v` to a register. An RO register ignores it (R22); CMD and STATUS have the effects of R25 and R27;
IRQ_EN keeps bit 0 alone (R28). -/
def Reg.write (r : Reg) (v : Word) (s : State) : State :=
  match r with
  | .id => s
  | .param => s
  | .cmd => submitCmd v s
  | .status => acknowledge v s
  | .irqEn => { s with irqEn := v.getLsbD 0 }
  | .crcIn => { s with regs := { s.regs with crcIn := v } }
  | .addrLo => { s with regs := { s.regs with addrLo := v } }
  | .addrHi => { s with regs := { s.regs with addrHi := v } }
  | .lenLo => { s with regs := { s.regs with lenLo := v } }
  | .lenHi => { s with regs := { s.regs with lenHi := v } }
  | .opaLo => { s with regs := { s.regs with opaLo := v } }
  | .opaHi => { s with regs := { s.regs with opaHi := v } }
  | .opb => { s with regs := { s.regs with opb := v } }
  | .resultLo => s
  | .resultHi => s
  | .faultAddrLo => s
  | .faultAddrHi => s

/-- A read at an admitted offset; a reserved one reads 0 (R22). -/
def windowRead (off : Nat) (s : State) : Word :=
  match Reg.atOffset off with
  | some r => r.read s
  | none => 0

/-- A write at an admitted offset; at a reserved one it has no effect (R22). -/
def windowWrite (off : Nat) (v : Word) (s : State) : State :=
  match Reg.atOffset off with
  | some r => r.write v s
  | none => s

end Sys2Proof.Machine
end

