-- ==== Sys2Proof/Machine/HostAgent.lean ====
section
/-! DEFINITION. The host agent (10_state.md R20, R22; 30_encoding.md R87, R88): what one statement does, and the
pseudo-statements with their expansions. -/

namespace Sys2Proof.Machine

/-- What a host variable that nothing has assigned reads as. DESIGN CHOICE, unsafe. Log entry 12. -/
def unsetVar : Word := 0

/-- The host's variable `x`. -/
def HostAgent.var (h : HostAgent) (x : Var) : Word := Cells.get unsetVar h.vars x

/-- The host with `v` in variable `x`. -/
def HostAgent.setVar (h : HostAgent) (x : Var) (v : Word) : HostAgent :=
  { h with vars := Cells.put unsetVar h.vars x v }

/-- The value of a host-side expression (R87, with the operators of 00_scope.md R10). -/
def Expr.eval (h : HostAgent) : Expr → Word
  | .lit v => v
  | .var x => h.var x
  | .xor a b => a.eval h ^^^ b.eval h
  | .and a b => a.eval h &&& b.eval h
  | .or a b => a.eval h ||| b.eval h
  | .shl a b => a.eval h <<< (b.eval h).toNat
  | .shr a b => a.eval h >>> (b.eval h).toNat

/-- The state with `v` in host variable `x`. -/
def setHostVar (x : Var) (v : Word) (s : State) : State := { s with host := s.host.setVar x v }

/-- The state with statement `st` put back in front of the host's program. -/
def pushStmt (st : HostStmt) (s : State) : State :=
  { s with host := { s.host with program := st :: s.host.program } }

/-- A bus write (R22): refused where it is not admitted. -/
def busWrite (addr width : Nat) (v : Word) (s : State) : Result :=
  match admitAccess s.regBase addr width with
  | .ok off => .next (windowWrite off v s)
  | .error why => .refused (.notAdmitted why)

/-- A bus read (R22) whose value goes to `f`: refused where it is not admitted. -/
def busRead (addr width : Nat) (f : Word → State → State) (s : State) : Result :=
  match admitAccess s.regBase addr width with
  | .ok off => .next (f (windowRead off s) s)
  | .error why => .refused (.notAdmitted why)

/-- What a poll does with the value `v` it read: keep it in `x`, and poll again while the bit is 1 (R88). -/
def pollAgain (addr : Nat) (x : Var) (bit : Nat) (v : Word) (s : State) : State :=
  if v.getLsbD bit then pushStmt (.pollWhileSet addr x bit) (setHostVar x v s) else setHostVar x v s

/-- What one statement does; `s` is the state with the statement taken off the program. -/
def runStmt (st : HostStmt) (s : State) : Result :=
  match st with
  | .write addr width v => busWrite addr width (v.eval s.host) s
  | .read addr width x => busRead addr width (setHostVar x) s
  | .assign x e => .next (setHostVar x (e.eval s.host) s)
  | .pollWhileSet addr x bit => busRead addr 32 (pollAgain addr x bit) s
  | .waitIrq => .next (if s.irq then s else pushStmt .waitIrq s)
  | .store addr b => hostStore addr b s
  | .remap rs => .next (hostRemap rs s)

/-- The state with the host's first statement taken off. -/
def popStmt (s : State) : State := { s with host := { s.host with program := s.host.program.tail } }

/-- The host's move: its next statement, or nothing when it has none. -/
def hostMove (s : State) : Result :=
  match s.host.program with
  | [] => .next s
  | st :: _ => runStmt st (popStmt s)

/-! ### The statements of R87 and the pseudo-statements of R88, for a window at `base` -/

/-- `WR <REG>, <value>`. -/
def HostStmt.wr (base : Nat) (r : Reg) (v : Expr) : HostStmt := .write (base + r.offset) 32 v

/-- `RD <REG> -> <var>`. -/
def HostStmt.rd (base : Nat) (r : Reg) (x : Var) : HostStmt := .read (base + r.offset) 32 x

/-- `CMD <MNEMONIC>`. -/
def HostStmt.cmd (base : Nat) (i : Instr) : HostStmt := .wr base .cmd (.lit (encode i))

/-- `CMD <literal>`. -/
def HostStmt.cmdWord (base : Nat) (w : Word) : HostStmt := .wr base .cmd (.lit w)

/-- `WAIT`, with the variable its poll reads into. -/
def HostStmt.wait (base : Nat) (t : Var) : HostStmt := .pollWhileSet (base + Reg.offset .status) t 0

/-- `SETBUF <addr64>, <len64>`. DESIGN CHOICE, safe: the operands are 64-bit literals, as in every program of
95_test_vectors.md, where R88 does not say whether host variables may stand there. Log entry 12. -/
def HostStmt.setBuf (base : Nat) (addr len : DWord) : List HostStmt :=
  [.wr base .addrLo (.lit (lowWord addr)), .wr base .addrHi (.lit (highWord addr)),
    .wr base .lenLo (.lit (lowWord len)), .wr base .lenHi (.lit (highWord len))]

/-- `SETA <v64>`. DESIGN CHOICE, safe: a 64-bit literal, as for `SETBUF`. Log entry 12. -/
def HostStmt.setA (base : Nat) (v : DWord) : List HostStmt :=
  [.wr base .opaLo (.lit (lowWord v)), .wr base .opaHi (.lit (highWord v))]

/-- `CRC32C <seed>, <addr64>, <len64> -> <var>`, with the variable its `WAIT` reads into. DESIGN CHOICE, safe: the seed is any
32-bit expression, the address and the length 64-bit literals, as for `SETBUF`. Log entry 12. -/
def HostStmt.crc32c (base : Nat) (seed : Expr) (addr len : DWord) (t x : Var) : List HostStmt :=
  .wr base .crcIn seed :: (HostStmt.setBuf base addr len ++
    [HostStmt.cmd base .compute, HostStmt.wait base t, .rd base .resultLo x])

end Sys2Proof.Machine
end

