-- ==== Sys2Proof/Machine/Engine.lean ====
section
/-! DEFINITION. The agents' moves (10_state.md R20) and whose move is next. -/

namespace Sys2Proof.Machine

/-- The engine's move (10_state.md R44, 30_encoding.md R81): while BUSY, completion of the latched word, which is decoded
here; an illegal word completes with ILLEGAL_CMD (R85, 60_exceptions.md R182). While IDLE it does nothing
(60_exceptions.md R198). -/
def engineMove (s : State) : Result :=
  if s.isBusy then
    match decodeWord s.latch.cmd with
    | .ok i => exec i s
    | .error _ => .next (complete (.err .illegalCmd) s)
  else .next s

/-- Whose move is next. The schedule says so while it lasts, so every interleaving of R44 and R189 is a schedule; then the
engine while BUSY, so that every accepted command completes (R44, weak fairness), then the host while it has
statements. DESIGN CHOICE, log entry 2. -/
def State.nextAgent (s : State) : Option Agent :=
  match s.turns with
  | a :: _ => some a
  | [] => if s.isBusy then some .engine else if s.host.program.isEmpty then none else some .host

/-- The state with the schedule's first turn taken. -/
def popTurn (s : State) : State := { s with turns := s.turns.tail }

/-- The move of an agent, or of none. -/
def agentMove (a : Option Agent) (s : State) : Result :=
  match a with
  | some .host => hostMove s
  | some .engine => engineMove s
  | some .reset => .next (blockReset s)
  | none => .next s

/-- The state in which the word `v` was just accepted from state `s` (R43) and the engine's move is next. -/
def afterSubmission (v : Word) (s : State) : State :=
  { acceptCmd v s with turns := .engine :: s.turns }

end Sys2Proof.Machine
end

