-- ==== Sys2Proof/Machine/Step.lean ====
section
/-! DEFINITION. One step of the machine, and the state whose next step runs a given command word. -/

namespace Sys2Proof.Machine

/-- One step: the move of the agent whose turn it is. An instance outside the ranges of 00_scope.md R7 is refused. -/
def step (s : State) : Host.Outcome State Fault Refusal :=
  if s.params.legal then agentMove s.nextAgent (popTurn s) else .refused .illegalInstance

/-- The block fetches nothing (20_memory.md R74): a command comes to run by a host write to CMD. So this is the state after
the acceptance of the word (10_state.md R43), with the engine's move next. Log entry 15. -/
def State.withFetchWord (s : State) (nbits w : Nat) : State :=
  afterSubmission (BitVec.ofNat 32 (w % 2 ^ nbits)) s

end Sys2Proof.Machine
end

