-- ==== Sys2Proof/Safety.lean ====
section
/-! DEFINITION. What a state of the machine keeps at every step, and what a safe move is, in the terms the claims use. -/

namespace Sys2Proof.Machine

/-- The working registers fit the widths of 10_state.md R42: 65 bits for `p`, which the range check keeps at most 2^64, 64
for `r`, 15 for `n` and `i`. -/
structure Working.Fits (w : Working) : Prop where
  p_le : w.p ≤ 2 ^ 64
  r_lt : w.r < 2 ^ 64
  n_lt : w.n < 2 ^ 15
  i_lt : w.i < 2 ^ 15

/-- The invariants of 10_state.md R26, the codes of 60_exceptions.md R181, the widths of R42, and the canonical form of the
lists.
`disturbed` belongs to a command in progress. -/
structure State.Inv (s : State) : Prop where
  /-- `ERRCODE != 0` exactly when `ERR = 1` (R26). -/
  errCode_iff : s.status.errCode ≠ 0 ↔ s.status.err = true
  /-- The codes 5 to 15 are never produced (R181). -/
  errCode_le : s.status.errCode.toNat ≤ 4
  /-- `BUSY = 1` implies `DONE = 0` (R26). -/
  busy_done : s.seq = .busy → s.status.done = false
  /-- `BUSY = 1` implies `ERR = 0` (R26). -/
  busy_err : s.seq = .busy → s.status.err = false
  /-- Buffer stability is broken only while a command runs (R72). -/
  disturbed_busy : s.disturbed = true → s.seq = .busy
  /-- The working registers fit their widths (R42). -/
  work_fits : s.work.Fits
  /-- The data space's bytes keep their canonical form. -/
  memory_wf : Memory.wf s.space.bytes
  /-- The host's variables keep theirs. -/
  vars_wf : Cells.wf unsetVar s.host.vars

/-- The buffer of the latched command is readable through and holds plain memory. -/
def State.bufferReadable (s : State) : Prop :=
  ∀ a, s.latch.covers a = true → s.space.readable a = true ∧ s.space.device a = false

/-- The latched buffer ends at or below 2^64 (42_slicing_engine.md R146). -/
def State.bufferInRange (s : State) : Prop := s.latch.addr.toNat + s.latch.len.toNat ≤ dataSpaceSize

end Sys2Proof.Machine
end

