-- ==== Sys2Proof/Certificates/Slice0/Vocabulary.lean ====
section
/-! DEFINITION. The words the statements are written in: what a completion leaves (10_state.md R44), the reflected
polynomials of 00_scope.md R14 and R15, and the table of 41_combine_rom.md R123. -/

namespace Sys2Proof.Claims
open Sys2Proof Sys2Proof.Machine

/-! ### What a completion leaves -/

/-- `s` after a completion with `Ok(lo, hi)` (R44): RESULT, DONE and SEQ, and the model's own note that a broken buffer no
longer matters. Everything else is as in `s`; that this holds of the latch and the working registers too is the model's
choice (log entry 4). -/
def completedWith (lo hi : Word) (s : State) : State :=
  { s with
    regs := { s.regs with resultLo := lo, resultHi := hi }
    status := { s.status with done := true }
    seq := .idle
    disturbed := false }

/-- `s` after a completion that reports the error `code` (R44, 60_exceptions.md R186), FAULT_ADDR as it was; the latch and
the working registers as for `completedWith`. -/
def failedWith (code : BitVec 4) (s : State) : State :=
  { s with
    status := { s.status with done := true, err := true, errCode := code }
    seq := .idle
    disturbed := false }

/-- `s` after a completion that reports READ_FAULT at `a` (R44, 60_exceptions.md R185). -/
def faultedAt (a : DWord) (s : State) : State :=
  { failedWith 4 s with
    regs := { s.regs with faultAddrLo := a.extractLsb' 0 32, faultAddrHi := a.extractLsb' 32 32 } }

/-- `s` with the latched seed `c`, address `a` and length `m`. -/
def withLatchedBuffer (c : Word) (a m : Nat) (s : State) : State :=
  { s with latch := { s.latch with crcIn := c, addr := BitVec.ofNat 64 a, len := BitVec.ofNat 64 m } }

/-! ### The register map, and the registers by their access (10_state.md R21) -/

/-- The table of R21: byte offset and register. -/
def registerMap : List (Nat × Reg) :=
  [(0x00, .id), (0x04, .param), (0x08, .cmd), (0x0C, .status), (0x10, .irqEn), (0x14, .crcIn), (0x18, .addrLo),
    (0x1C, .addrHi), (0x20, .lenLo), (0x24, .lenHi), (0x28, .opaLo), (0x2C, .opaHi), (0x30, .opb), (0x34, .resultLo),
    (0x38, .resultHi), (0x3C, .faultAddrLo), (0x40, .faultAddrHi)]

/-- The RW registers that hold operands (R29 to R33). -/
def operandRegs : List Reg := [.crcIn, .addrLo, .addrHi, .lenLo, .lenHi, .opaLo, .opaHi, .opb]

/-- The RO registers that R22 lists. -/
def readOnlyRegs : List Reg := [.id, .param, .resultLo, .resultHi, .faultAddrLo, .faultAddrHi]

/-! ### The host's program (30_encoding.md R87) -/

/-- `s` with the statements `rest` still to do. -/
def withProgram (rest : List HostStmt) (s : State) : State := { s with host := { s.host with program := rest } }

/-- From host `h` to host `h'` variable `x` took the value `v`, and every other variable reads as before. -/
def assignedAlone (x : Var) (v : Word) (h h' : HostAgent) : Prop :=
  h'.var x = v ∧ ∀ y, y ≠ x → h'.var y = h.var y

/-! ### Buffer stability (20_memory.md R72) -/

/-- The buffer of the command in progress, `[L.addr, L.addr + L.len)` while BUSY, holds address `a`. -/
def inRunningBuffer (s : State) (a : Nat) : Prop :=
  s.seq = .busy ∧ s.latch.addr.toNat ≤ a ∧ a < s.latch.addr.toNat + s.latch.len.toNat

/-- The map `rs` changes what is readable, or what is a device, at some address of the running command's buffer. -/
def remapBreaksBuffer (s : State) (rs : List Region) : Prop :=
  ∃ a, inRunningBuffer s a ∧
    (({ s.space with regions := rs } : DataSpace).readable a ≠ s.space.readable a ∨
      ({ s.space with regions := rs } : DataSpace).device a ≠ s.space.device a)

/-! ### Reflected polynomials over GF(2) -/

/-- What the `w`-bit value `v` stands for in reflected order (00_scope.md R14): bit `i` is the coefficient of
`x^(w-1-i)`. -/
noncomputable def reflPoly {w : Nat} (v : BitVec w) : Polynomial (ZMod 2) :=
  ∑ i ∈ Finset.range w, if v.getLsbD i then Polynomial.X ^ (w - 1 - i) else 0

/-- The exponents of the Castagnoli polynomial (R15). -/
def castagnoliExponents : List Nat := [32, 28, 27, 26, 25, 23, 22, 20, 19, 18, 14, 13, 11, 10, 9, 8, 6, 0]

/-- `P(x)` of R15. -/
noncomputable def castagnoli : Polynomial (ZMod 2) := (castagnoliExponents.map fun e => Polynomial.X ^ e).sum

/-- `a` and `b` are the same polynomial modulo `P(x)`. -/
def congrModP (a b : Polynomial (ZMod 2)) : Prop := castagnoli ∣ a - b

/-! ### The hex digits of a disassembled word -/

/-- The value of a hex digit, capitals as the spec prints them. -/
def hexValue (c : Char) : Option Nat :=
  if '0' ≤ c ∧ c ≤ '9' then some (c.toNat - '0'.toNat)
  else if 'A' ≤ c ∧ c ≤ 'F' then some (c.toNat - 'A'.toNat + 10)
  else none

/-- The number that hex digits write, the highest first. -/
def hexNumber (ds : List Char) : Option Nat :=
  ds.foldl (fun n c => n.bind fun n => (hexValue c).map fun d => 16 * n + d) (some 0)

/-! ### The ROM contents of 41_combine_rom.md R123 -/

/-- Rows 1 to 16 of the table of 41_combine_rom.md R123, `K_hi` and `K_lo`. -/
def romTable1 : List (Word × Word) :=
  [(0x00000001, 0x493C7D27), (0x493C7D27, 0xBA4FC28E), (0xF20C0DFE, 0xDDC0152B), (0xBA4FC28E, 0x9E4ADDF8),
    (0x3DA6D0CB, 0x39D3B296), (0xDDC0152B, 0x0715CE53), (0x1C291D04, 0x47DB8317), (0x9E4ADDF8, 0x0D3B6092),
    (0x740EEF02, 0xC96CFDC0), (0x39D3B296, 0x878A92A7), (0x083A6EEC, 0xDAECE73E), (0x0715CE53, 0xAB7AFF2A),
    (0xC49F4F67, 0x2162D385), (0x47DB8317, 0x83348832), (0x2AD91C30, 0x299847D5), (0x0D3B6092, 0xB9E02B86)]

/-- Rows 17 to 32 of the table of 41_combine_rom.md R123, `K_hi` and `K_lo`. -/
def romTable2 : List (Word × Word) :=
  [(0x6992CEA2, 0x18B33A4E), (0xC96CFDC0, 0xB6DD949B), (0x7E908048, 0x78D9CCB7), (0x878A92A7, 0xBAC2FD7B),
    (0x1B3D8F29, 0xA60CE07B), (0xDAECE73E, 0xCE7F39F4), (0xF1D0F55E, 0x61D82E56), (0xAB7AFF2A, 0xD270F1A2),
    (0xA87AB8A8, 0xC619809D), (0x2162D385, 0x2B3CAC5D), (0x8462D800, 0x65863B64), (0x83348832, 0x1B03397F),
    (0x71D111A8, 0xEBB883BD), (0x299847D5, 0xB3E32C28), (0xFFD852C6, 0x064F7F26), (0xB9E02B86, 0xDD7E3B0C)]

/-- Rows 33 to 48 of the table of 41_combine_rom.md R123, `K_hi` and `K_lo`. -/
def romTable3 : List (Word × Word) :=
  [(0xDCB17AA4, 0xF285651C), (0x18B33A4E, 0x10746F3C), (0xF37C5AEE, 0xC7A68855), (0xB6DD949B, 0x271D9844),
    (0x6051D5A2, 0x8E766A0C), (0x78D9CCB7, 0x93A5F730), (0x18B0D4FF, 0x6CB08E5C), (0xBAC2FD7B, 0x6B749FB2),
    (0x21F3D99C, 0x1393E203), (0xA60CE07B, 0xCEC3662E), (0x8F158014, 0x96C515BB), (0xCE7F39F4, 0xE6FC4E6A),
    (0xA00457F7, 0x8227BB8A), (0x61D82E56, 0xB0CD4768), (0x8D6D2C43, 0x39C7FF35), (0xD270F1A2, 0xD7A4825C)]

/-- Rows 49 to 64 of the table of 41_combine_rom.md R123, `K_hi` and `K_lo`. -/
def romTable4 : List (Word × Word) :=
  [(0x00AC29CF, 0x0AB3844B), (0xC619809D, 0x0167D312), (0xE9ADF796, 0xF6076544), (0x2B3CAC5D, 0x26F6A60A),
    (0x96638B34, 0xA741C1BF), (0x65863B64, 0x98D8D9CB), (0xE0E9F351, 0x49C3CC9C), (0x1B03397F, 0x68BCE87A),
    (0x9AF01F2D, 0x57A3D037), (0xEBB883BD, 0x6956FC3B), (0x2CFF42CF, 0x42D98888), (0xB3E32C28, 0x3771E98F),
    (0x88F25A3A, 0xB42AE3D9), (0x064F7F26, 0x2178513A), (0x4E36F0B0, 0xE0AC139E), (0xDD7E3B0C, 0x170076FA)]

/-- Rows 65 to 80 of the table of 41_combine_rom.md R123, `K_hi` and `K_lo`. -/
def romTable5 : List (Word × Word) :=
  [(0xBD6F81F8, 0x444DD413), (0xF285651C, 0x6F345E45), (0x91C9BD4B, 0x41D17B64), (0x10746F3C, 0xFF0DBA97),
    (0x885F087B, 0xA2B73DF1), (0xC7A68855, 0xF872E54C), (0x4C144932, 0x1E41E9FC), (0x271D9844, 0x86D8E4D2),
    (0x52148F02, 0x651BD98B), (0x8E766A0C, 0x5BB8F1BC), (0xA3C6F37A, 0xA90FD27A), (0x93A5F730, 0xB3AF077A),
    (0xD7C0557F, 0x4984D782), (0x6CB08E5C, 0xCA6EF3AC), (0x63DED06A, 0x234E0B26), (0x6B749FB2, 0xDD66CBBB)]

/-- Rows 81 to 96 of the table of 41_combine_rom.md R123, `K_hi` and `K_lo`. -/
def romTable6 : List (Word × Word) :=
  [(0x4D56973C, 0x4597456A), (0x1393E203, 0xE9E28EB4), (0x9669C9DF, 0x7B3FF57A), (0xCEC3662E, 0xC9C8B782),
    (0xE417F38A, 0x3F70CC6F), (0x96C515BB, 0x93E106A4), (0x4B9E0F71, 0x62EC6C6D), (0xE6FC4E6A, 0xD813B325),
    (0xD104B8FC, 0x0DF04680), (0x8227BB8A, 0x2342001E), (0x5B397730, 0x0A2A8D7E), (0xB0CD4768, 0x6D9A4957),
    (0xE78EB416, 0xE8B6368B), (0x39C7FF35, 0xD2C3ED1A), (0x61FF0E01, 0x995A5724), (0xD7A4825C, 0x9EF68D35)]

/-- Rows 97 to 112 of the table of 41_combine_rom.md R123, `K_hi` and `K_lo`. -/
def romTable7 : List (Word × Word) :=
  [(0x8D96551C, 0x0C139B31), (0x0AB3844B, 0xF2271E60), (0x0BF80DD2, 0x0B0BF8CA), (0x0167D312, 0x2664FD8B),
    (0x8821ABED, 0xED64812D), (0xF6076544, 0x02EE03B2), (0x6A45D2B2, 0x8604AE0F), (0x26F6A60A, 0x363BD6B3),
    (0xD8D26619, 0x135C83FD), (0xA741C1BF, 0x5FABE670), (0xDE87806C, 0x35EC3279), (0x98D8D9CB, 0x00BCF5F6),
    (0x14338754, 0x8AE00689), (0x49C3CC9C, 0x17F27698), (0x5BD2011F, 0x58CA5F00), (0x68BCE87A, 0xAA7C7AD5)]

/-- Rows 113 to 128 of the table of 41_combine_rom.md R123, `K_hi` and `K_lo`. -/
def romTable8 : List (Word × Word) :=
  [(0xDD07448E, 0xB5CFCA28), (0x57A3D037, 0xDED288F8), (0xDDE8F5B9, 0x59F229BC), (0x6956FC3B, 0x6D390DEC),
    (0xA3E3E02C, 0x37170390), (0x42D98888, 0x6353C1CC), (0xD73C7BEA, 0xC4584F5C), (0x3771E98F, 0xF48642E9),
    (0x80FF0093, 0x531377E2), (0xB42AE3D9, 0xDD35BC8D), (0x8FE4C34D, 0xB25B29F2), (0x2178513A, 0x9A5EDE41),
    (0xDF99FC11, 0xA563905D), (0xE0AC139E, 0x45CDDF4E), (0x6C23E841, 0xACFA3103), (0x170076FA, 0xA51B6135)]

/-- The 128 rows, `n = 1` first. -/
def romTable : List (Word × Word) :=
  romTable1 ++ romTable2 ++ romTable3 ++ romTable4 ++ romTable5 ++ romTable6 ++ romTable7 ++ romTable8

end Sys2Proof.Claims
end

