-- ==== Sys2Proof/Certificates/Slice0/Obligations.lean ====
section
/-! DEFINITION. The statements for the provers. OBLIGATIONS.json lists them with their tiers, titles and rules. -/

open Sys2Proof Sys2Proof.Machine Sys2Proof.Claims

/-! ## Encoding -/

/-- 30_encoding.md R82: exactly one valid word per command, and which. -/
def Obligations.OneValidWordPerCommand : Prop :=
  (∀ (i : Instr) (w : Word), decodeWord w = .ok i ↔ w = encode i) ∧
    encode .compute = 1 ∧ encode .step1 = 2 ∧ encode .step2 = 3 ∧ encode .step4 = 4 ∧ encode .step8 = 5 ∧
    encode .clmul = 6 ∧ encode .romrd = 7 ∧ encode .combine = 8

/-- 30_encoding.md R81, R85, 60_exceptions.md R182: while BUSY the engine runs the command the latched word selects, and
completes every other word with ILLEGAL_CMD; while IDLE it does nothing (10_state.md R44, 60_exceptions.md R198; log entry
18, DEDUCED). That such a completion leaves the latch and the working registers is the model's choice (log entry 4). -/
def Obligations.EngineRunsTheSelectedCommand : Prop :=
  (∀ s : State, s.seq = .idle → engineMove s = .next s) ∧
  ∀ s : State, s.seq = .busy →
    (s.latch.cmd.extractLsb' 4 28 ≠ 0 → engineMove s = .next (failedWith 1 s)) ∧
    (s.latch.cmd.extractLsb' 4 28 = 0 →
      (s.latch.cmd.extractLsb' 0 4 = 0x1#4 → engineMove s = exec .compute s) ∧
      (s.latch.cmd.extractLsb' 0 4 = 0x2#4 → engineMove s = exec .step1 s) ∧
      (s.latch.cmd.extractLsb' 0 4 = 0x3#4 → engineMove s = exec .step2 s) ∧
      (s.latch.cmd.extractLsb' 0 4 = 0x4#4 → engineMove s = exec .step4 s) ∧
      (s.latch.cmd.extractLsb' 0 4 = 0x5#4 → engineMove s = exec .step8 s) ∧
      (s.latch.cmd.extractLsb' 0 4 = 0x6#4 → engineMove s = exec .clmul s) ∧
      (s.latch.cmd.extractLsb' 0 4 = 0x7#4 → engineMove s = exec .romrd s) ∧
      (s.latch.cmd.extractLsb' 0 4 = 0x8#4 → engineMove s = exec .combine s) ∧
      ((s.latch.cmd.extractLsb' 0 4 = 0x0#4 ∨ 0x9#4 ≤ s.latch.cmd.extractLsb' 0 4) →
        engineMove s = .next (failedWith 1 s))) ∧
    ((∃ i, decodeWord s.latch.cmd = .ok i) ↔ 1 ≤ s.latch.cmd.toNat ∧ s.latch.cmd.toNat ≤ 8)

/-- A sanity statement: four words of R82 and R85, written as RSV then OP. -/
def Obligations.SampleWordsDecode : Prop :=
  decodeWord (0#28 ++ 0b0001#4) = .ok .compute ∧ decodeWord (0#28 ++ 0b0110#4) = .ok .clmul ∧
    decodeWord (0#28 ++ 0b1000#4) = .ok .combine ∧ decodeWord (1#28 ++ 0b0001#4) = .error .reservedBits ∧
    decodeWord (0#28 ++ 0b1001#4) = .error .reservedOp

/-- 30_encoding.md R89: a valid word prints as its mnemonic, any other as `CMD.ILLEGAL 0x` and eight hex digits that write
it. -/
def Obligations.DisassemblyPrintsTheWord : Prop :=
  (disassemble 1 = "COMPUTE" ∧ disassemble 2 = "STEP1" ∧ disassemble 3 = "STEP2" ∧ disassemble 4 = "STEP4" ∧
      disassemble 5 = "STEP8" ∧ disassemble 6 = "CLMUL" ∧ disassemble 7 = "ROMRD" ∧ disassemble 8 = "COMBINE") ∧
    ∀ w : Word, w.toNat < 1 ∨ 8 < w.toNat →
      ∃ ds : List Char, ds.length = 8 ∧ hexNumber ds = some w.toNat ∧
        disassemble w = "CMD.ILLEGAL 0x" ++ String.ofList ds

/-! ## One step -/

/-- A step of a legal instance is the move of the agent whose turn it is, from the state with the turn taken; the order of
the turns is the model's choice (log entry 2), and a step with nothing to do its reading (log entry 18). The engine's move,
while BUSY with a word that decodes to `i`, is `exec i` of that state; and the state `withFetchWord` makes from `s` is such a
state: its step is `exec i` of `s` after the acceptance of the word. -/
def Obligations.StepRunsTheDecodedCommand : Prop :=
  (∀ (s : State) (i : Instr), s.params.legal = true → s.seq = .busy → s.nextAgent = some .engine →
      decodeWord s.latch.cmd = .ok i → step s = exec i { s with turns := s.turns.tail }) ∧
    (∀ s : State, s.params.legal = true →
      (s.nextAgent = some .engine → step s = engineMove { s with turns := s.turns.tail }) ∧
      (s.nextAgent = some .host → step s = hostMove { s with turns := s.turns.tail }) ∧
      (s.nextAgent = some .reset → step s = .next (blockReset { s with turns := s.turns.tail })) ∧
      (s.nextAgent = none → step s = .next s)) ∧
    (∀ s : State, (∀ a ts, s.turns = a :: ts → s.nextAgent = some a) ∧
      (s.turns = [] → (s.seq = .busy → s.nextAgent = some .engine) ∧
        (s.seq = .idle → s.host.program ≠ [] → s.nextAgent = some .host) ∧
        (s.seq = .idle → s.host.program = [] → s.nextAgent = none))) ∧
    ∀ (s : State) (i : Instr) (w : Word), s.params.legal = true → decodeWord w = .ok i →
      step (s.withFetchWord 32 w.toNat) = exec i (acceptCmd w s)

/-- 10_state.md R44: whenever the engine's turn comes, an accepted command completes: SEQ is IDLE and DONE is 1. The turn
comes by the schedule at any moment, or of itself when the schedule is at its end. -/
def Obligations.AcceptedCommandCompletes : Prop :=
  ∀ (s : State) (ts : List Agent), s.params.legal = true → s.seq = .busy →
    (∃ t, step { s with turns := .engine :: ts } = .next t ∧ t.seq = .idle ∧ t.status.done = true ∧ t.turns = ts) ∧
      ∃ t, step { s with turns := [] } = .next t ∧ t.seq = .idle ∧ t.status.done = true

/-! ## The step commands and the multiplier -/

/-- 40_step_adapter.md R102: STEP1, its result, its frame and its corner cases. That the frame holds the latch and the
working registers is the model's choice (log entry 4). -/
def Obligations.Step1FoldsOneByte : Prop :=
  (∀ s : State, exec .step1 s = .next (completedWith (step1 s.latch.crcIn (s.latch.opa.extractLsb' 0 8)) 0 s)) ∧
    step1 0 0 = 0 ∧
    (∀ (c : Word) (v : Byte), c.extractLsb' 0 8 = v → step1 c v = c >>> 8) ∧
    step1 0xFFFFFFFF 0xFF = 0x00FFFFFF ∧ step1 0xFFFFFFFF 0x31 = 0x6F0A661C

/-- 40_step_adapter.md R103: STEP2. That its frame holds the latch and the working registers is the model's choice (log entry
4). -/
def Obligations.Step2FoldsTwoBytes : Prop :=
  (∀ s : State, exec .step2 s = .next (completedWith (step2 s.latch.crcIn (s.latch.opa.extractLsb' 0 16)) 0 s)) ∧
    (∀ (c : Word) (v : BitVec 16), step2 c v = step1 (step1 c (v.extractLsb' 0 8)) (v.extractLsb' 8 8)) ∧
    step2 0xFFFFFFFF 0xFFFF = 0x0000FFFF ∧ step2 0xFFFFFFFF 0x3231 = 0x8CAA3B9F

/-- 40_step_adapter.md R104: STEP4. That its frame holds the latch and the working registers is the model's choice (log entry
4). -/
def Obligations.Step4FoldsFourBytes : Prop :=
  (∀ s : State, exec .step4 s = .next (completedWith (step4 s.latch.crcIn (s.latch.opa.extractLsb' 0 32)) 0 s)) ∧
    (∀ c v : Word, step4 c v = step4 0 (c ^^^ v)) ∧ (∀ c : Word, step4 c c = 0) ∧
    step4 0xFFFFFFFF 0x34333231 = 0x09C50B11 ∧
    ∀ c v : Word, step4 c v =
      step1 (step1 (step1 (step1 c (v.extractLsb' 0 8)) (v.extractLsb' 8 8)) (v.extractLsb' 16 8)) (v.extractLsb' 24 8)

/-- 40_step_adapter.md R105: STEP8. That its frame holds the latch and the working registers is the model's choice (log entry
4). -/
def Obligations.Step8FoldsEightBytes : Prop :=
  (∀ s : State, exec .step8 s = .next (completedWith (step8 s.latch.crcIn s.latch.opa) 0 s)) ∧
    step8 0 1 = 0x493C7D27 ∧ step8 1 0 = 0x493C7D27 ∧ step8 0 0x8000000000000000 = poly ∧
    (∀ a b : Word, (clmul a b).getLsbD 63 = false) ∧ step8 0xFFFFFFFF 0x3837363534333231 = 0x9F787F65

/-- 40_step_adapter.md R108: CLMUL. That its frame holds the latch and the working registers is the model's choice (log entry
4). -/
def Obligations.ClmulWritesTheProduct : Prop :=
  (∀ s : State, exec .clmul s = .next (completedWith
      ((clmul (s.latch.opa.extractLsb' 0 32) s.latch.opb).extractLsb' 0 32)
      ((clmul (s.latch.opa.extractLsb' 0 32) s.latch.opb).extractLsb' 32 32) s)) ∧
    (∀ a : Word, clmul a 0 = 0 ∧ clmul 0 a = 0 ∧ clmul a 1 = a.setWidth 64) ∧
    (∀ a b : Word, ((clmul a b).extractLsb' 32 32).getLsbD 31 = false) ∧
    clmul 0xFFFFFFFF 0xFFFFFFFF = 0x5555555555555555 ∧ clmul 0x80000000 0x80000000 = 0x4000000000000000 ∧
    clmul 7 5 = 0x1B

/-- 40_step_adapter.md R106 (a), (b), (c): linearity, folding the accumulator into the data, grouping. -/
def Obligations.StepFunctionLaws : Prop :=
  (∀ (k : Nat) (c c' : Word) (v v' : BitVec (8 * k)), stepk k (c ^^^ c') (v ^^^ v') = stepk k c v ^^^ stepk k c' v') ∧
    (∀ (c : Word) (v : BitVec 32), step4 c v = step4 0 (v ^^^ c)) ∧
    (∀ (c : Word) (v : DWord), step8 c v = step8 0 (v ^^^ c.setWidth 64)) ∧
    (∀ (c : Word) (h l : Byte), step2 c (h ++ l) = step1 (step1 c l) h) ∧
    (∀ (c : Word) (h l : BitVec 16), step4 c (h ++ l) = step2 (step2 c l) h) ∧
    ∀ (c : Word) (h l : BitVec 32), step8 c (h ++ l) = step4 (step4 c l) h

/-- 40_step_adapter.md R109 (a), (b), (c). -/
def Obligations.ClmulLaws : Prop :=
  (∀ a b : Word, clmul a b = clmul b a) ∧
    (∀ a a' b : Word, clmul (a ^^^ a') b = clmul a b ^^^ clmul a' b) ∧
    (∀ a b b' : Word, clmul a (b ^^^ b') = clmul a b ^^^ clmul a b') ∧
    ∀ a b : Word, (clmul a b).getLsbD 63 = false

/-- 40_step_adapter.md R106 (d), with 00_scope.md R15: `POLY` is `P(x)` without `x^32`, and `stepk(c, v)` stands for
`(c(x) * x^(8k) + v(x) * x^32) mod P(x)`. -/
def Obligations.StepIsPolynomialReduction : Prop :=
  castagnoli = Polynomial.X ^ 32 + reflPoly poly ∧
    ∀ (k : Nat) (c : Word) (v : BitVec (8 * k)),
      congrModP (reflPoly (stepk k c v)) (reflPoly c * Polynomial.X ^ (8 * k) + reflPoly v * Polynomial.X ^ 32)

/-- 40_step_adapter.md R109 (d), (e): `clmul(a, b)` stands for `a(x) * b(x) * x`, and one doubleword fold of it for
`a(x) * b(x) * x^33 mod P(x)`. -/
def Obligations.ClmulIsPolynomialProduct : Prop :=
  ∀ a b : Word, reflPoly (clmul a b) = reflPoly a * reflPoly b * Polynomial.X ∧
    congrModP (reflPoly (step8 0 (clmul a b))) (reflPoly a * reflPoly b * Polynomial.X ^ 33)

/-! ## The ROM and COMBINE -/

/-- 41_combine_rom.md R123: the 128 rows of the default instance's ROM; the same formula for every other instance, for as many
rows as it has and no more; and `K_hi(2m) = K_lo(m)`. -/
def Obligations.RomHoldsTheTable : Prop :=
  romTable.length = 128 ∧
    (∀ n : Fin 128, ∀ row : Word × Word, romTable[n.val]? = some row →
      romRead .default (n.val + 1) = some (row.1 ++ row.2)) ∧
    (∀ (p : Params) (n : Nat), 1 ≤ n → n ≤ p.maxBlockLen →
      romRead p n = some (zeroShiftBy (n - 1) 1 ++ zeroShiftBy (2 * n - 1) 1)) ∧
    (∀ (p : Params) (n : Nat), n < 1 ∨ p.maxBlockLen < n → romRead p n = none) ∧
    ∀ m : Nat, kHi (2 * m) = kLo m

/-- 41_combine_rom.md R122: what the two constants of an entry stand for. -/
def Obligations.RomConstantsAreShiftedPowers : Prop :=
  ∀ n : Nat, 1 ≤ n →
    congrModP (reflPoly (kHi n)) (Polynomial.X ^ (64 * n - 33)) ∧
      congrModP (reflPoly (kLo n)) (Polynomial.X ^ (128 * n - 33))

/-- 41_combine_rom.md R125: the shift identity, and what it says of the ROM's constants. -/
def Obligations.ShiftIdentity : Prop :=
  (∀ (a : Word) (j : Nat), step8 0 (clmul a (zeroShiftBy j 1)) = zeroShiftBy (j + 1) a) ∧
    ∀ (a : Word) (n : Nat), 1 ≤ n →
      step8 0 (clmul a (kLo n)) = zeroShiftBy (2 * n) a ∧ step8 0 (clmul a (kHi n)) = zeroShiftBy n a

/-- 41_combine_rom.md R124: ROMRD. That its frame holds the latch and the working registers is the model's choice (log entry 4). -/
def Obligations.RomrdReadsOneEntry : Prop :=
  (∀ s : State, 1 ≤ s.latch.opb.toNat → s.latch.opb.toNat ≤ s.params.maxBlockLen →
      exec .romrd s = .next (completedWith (kLo s.latch.opb.toNat) (kHi s.latch.opb.toNat) s)) ∧
    (∀ s : State, s.latch.opb.toNat < 1 ∨ s.params.maxBlockLen < s.latch.opb.toNat →
      exec .romrd s = .next (failedWith 2 s)) ∧
    kHi 1 = 0x00000001 ∧ kLo 1 = 0x493C7D27

/-- 42_slicing_engine.md R142: COMBINE, and what the combine function is. That its frame holds the latch and the working
registers is the model's choice (log entry 4). -/
def Obligations.CombineMergesTheStreams : Prop :=
  (∀ s : State, 1 ≤ s.latch.opb.toNat → s.latch.opb.toNat ≤ s.params.maxBlockLen →
      exec .combine s = .next (completedWith
        (step8 0 (clmul s.latch.crcIn (kLo s.latch.opb.toNat)) ^^^
          step8 0 (clmul (s.latch.opa.extractLsb' 0 32) (kHi s.latch.opb.toNat)) ^^^ s.latch.opa.extractLsb' 32 32)
        0 s)) ∧
    (∀ s : State, s.latch.opb.toNat < 1 ∨ s.params.maxBlockLen < s.latch.opb.toNat →
      exec .combine s = .next (failedWith 2 s)) ∧
    (∀ (a0 a1 a2 : Word) (n : Nat), 1 ≤ n →
      combine a0 a1 a2 n = zeroShiftBy (2 * n) a0 ^^^ zeroShiftBy n a1 ^^^ a2) ∧
    combine 0x75D343C4 0x76AB22E2 0xE75A5617 1 = 0xD643786A

/-! ## The memory port -/

/-- 00_scope.md R12, 20_memory.md R64: a read succeeds exactly when all its bytes are readable, its value is the
little-endian sum, and otherwise it signals a fault at its start address. -/
def Obligations.MemReadSumsItsBytes : Prop :=
  ∀ (d : DataSpace) (a k : Nat),
    ((∀ j < k, d.readable (a + j) = true) →
      ∃ v, d.memRead a k = .ok v ∧ v.toNat = ∑ j ∈ Finset.range k, (d.byteAt (a + j)).toNat <<< (8 * j)) ∧
    ((∃ j < k, d.readable (a + j) = false) → d.memRead a k = .error a)

/-- 20_memory.md R62: folding a read of `k` bytes is folding them one by one, by rising address. -/
def Obligations.FoldingAReadFoldsItsBytes : Prop :=
  ∀ (d : DataSpace) (a k : Nat) (c : Word) (v : BitVec (8 * k)), d.memRead a k = .ok v →
    stepk k c v = crcRef c ((List.range k).map fun j => d.byteAt (a + j))

/-! ## COMPUTE -/

/-- 42_slicing_engine.md R141: over a stable buffer that is in range and readable, holding plain memory, COMPUTE completes
with the reference CRC of the buffer's bytes, whatever the alignment and the legal parameters. That the latch stays is the
model's choice (log entry 4). -/
def Obligations.ComputeReturnsTheReferenceCrc : Prop :=
  ∀ s : State, s.params.legal = true → s.disturbed = false → s.bufferInRange → s.bufferReadable →
    ∃ w, exec .compute s = .next (completedWith
      (crcRef s.latch.crcIn (s.space.bytesAt s.latch.addr.toNat s.latch.len.toNat)) 0 { s with work := w })

/-- 42_slicing_engine.md R149: the form of COMPUTE over its access sequence: RANGE, else READ_FAULT at the first access with
an unreadable byte, else the reference CRC, where the buffer holds plain memory (DeviceBufferCompletes speaks of the
rest). That the latch stays is the model's choice (log entry 4), and so is the READ_FAULT clause where the buffer meets a
device, with RESULT and the data space as they were (log entry 10): R68 leaves such a buffer outside the spec. -/
def Obligations.ComputeFollowsItsAccessSequence : Prop :=
  ∀ s : State, s.params.legal = true → s.disturbed = false →
    (2 ^ 64 < s.latch.addr.toNat + s.latch.len.toNat →
      ∃ w, exec .compute s = .next (failedWith 3 { s with work := w })) ∧
    (s.latch.addr.toNat + s.latch.len.toNat ≤ 2 ^ 64 →
      (∀ x, (accessSeq s.params s.latch.addr.toNat s.latch.len.toNat).find?
            (fun x => !s.space.readableRange x.1 x.2) = some x →
          ∃ w, exec .compute s = .next (faultedAt (BitVec.ofNat 64 x.1) { s with work := w })) ∧
      ((accessSeq s.params s.latch.addr.toNat s.latch.len.toNat).find?
            (fun x => !s.space.readableRange x.1 x.2) = none →
          s.space.deviceIn s.latch.addr.toNat s.latch.len.toNat = false →
          ∃ w, exec .compute s = .next (completedWith
            (crcRef s.latch.crcIn (s.space.bytesAt s.latch.addr.toNat s.latch.len.toNat)) 0 { s with work := w })))

/-- 42_slicing_engine.md R145: a buffer of no bytes gives the seed, at every address, whatever is readable. That the latch
stays is the model's choice (log entry 4). -/
def Obligations.ComputeOfNothingReturnsTheSeed : Prop :=
  ∀ s : State, s.params.legal = true → s.disturbed = false → s.latch.len = 0 →
    (∃ w, exec .compute s = .next (completedWith s.latch.crcIn 0 { s with work := w })) ∧
      accessSeq s.params s.latch.addr.toNat 0 = []

/-- 60_exceptions.md R184: RANGE when the buffer passes 2^64, before any access, in every state; never when the length
is 0. That RANGE goes before the draw of a buffer that was not stable is the model's reading (log entry 9, DEDUCED), and that
it leaves the working registers the model's choice (log entry 4). -/
def Obligations.ComputePastTheTopIsRange : Prop :=
  (∀ s : State, 2 ^ 64 < s.latch.addr.toNat + s.latch.len.toNat → exec .compute s = .next (failedWith 3 s)) ∧
    ∀ s : State, s.latch.addr.toNat + s.latch.len.toNat ≤ 2 ^ 64 → s.status.errCode ≠ 3 →
      ∃ t, exec .compute s = .next t ∧ t.status.errCode ≠ 3

/-- 42_slicing_engine.md R159, 20_memory.md R66: the accesses tile the buffer, with no overlap and no gap, and a buffer of
no bytes has none. -/
def Obligations.AccessesTileTheBuffer : Prop :=
  ∀ (p : Params) (a m : Nat), p.legal = true →
    ((accessSeq p a m).flatMap fun x => List.range' x.1 x.2).Perm (List.range' a m) ∧ accessSeq p a 0 = []

/-- 20_memory.md R63: the widths, in order: at most one 1-, one 2- and one 4-byte access of leading alignment (and none
below THRESHOLD or with ALIGN_LEADING = 0), then 8-byte accesses, then at most one 4-, one 2- and one 1-byte access. -/
def Obligations.AccessWidthsComeInOrder : Prop :=
  ∀ (p : Params) (a m : Nat), p.legal = true →
    ∃ lead wide small : List (Nat × Nat), accessSeq p a m = lead ++ wide ++ small ∧
      (lead.map Prod.snd).Sublist [1, 2, 4] ∧ (m < p.threshold ∨ p.alignLeading = false → lead = []) ∧
      (∀ x ∈ wide, x.2 = 8) ∧ (small.map Prod.snd).Sublist [4, 2, 1]

/-- 20_memory.md R65: on the sliced path with ALIGN_LEADING = 1 every 8-byte access is 8-byte aligned. -/
def Obligations.SlicedPathReadsAreAligned : Prop :=
  ∀ (p : Params) (a m : Nat), p.legal = true → p.alignLeading = true → p.threshold ≤ m →
    ∀ x ∈ accessSeq p a m, x.2 = 8 → x.1 % 8 = 0

/-- 42_slicing_engine.md R160, the slicing iteration: it folds the `24 n` bytes at `p` in order, for `n` of R150, and
advances (R153). -/
def Obligations.SliceIterationFoldsItsBytes : Prop :=
  ∀ (p : Params) (d : DataSpace) (w w' : Working), p.legal = true → p.threshold ≤ w.r → sliceIter p d w = .ok w' →
    1 ≤ w'.n ∧ w'.n = min p.maxBlockLen (w.r / 24) ∧ 24 * w'.n ≤ w.r ∧
      w'.c = crcRef w.c (d.bytesAt w.p (24 * w'.n)) ∧ w'.p = w.p + 24 * w'.n ∧ w'.r = w.r - 24 * w'.n

/-- 00_scope.md R8: two legal choices of the parameters give the same RESULT and the same STATUS. FAULT_ADDR alone may
differ. Where the buffer was not stable or meets a device, the two results are one free value of the model (log entries 9
and 10), which R8 does not speak of. -/
def Obligations.ParametersDoNotChangeTheResult : Prop :=
  ∀ (s t t' : State) (q : Params), s.params.legal = true → q.legal = true →
    exec .compute s = .next t → exec .compute { s with params := q } = .next t' →
    t.regs.resultLo = t'.regs.resultLo ∧ t.regs.resultHi = t'.regs.resultHi ∧ t.status = t'.status

/-- 42_slicing_engine.md R161: two adjoining COMPUTEs, the second seeded with the first one's RESULT_LO, give what one
COMPUTE over both gives. -/
def Obligations.ComputeIsIncremental : Prop :=
  ∀ (s t1 t2 : State) (c : Word) (a m m' : Nat), s.params.legal = true → s.disturbed = false →
    s.status.err = false → a < 2 ^ 64 → m + m' < 2 ^ 64 → a + m + m' ≤ 2 ^ 64 → s.space.deviceIn a (m + m') = false →
    exec .compute (withLatchedBuffer c a m s) = .next t1 → t1.status.err = false →
    exec .compute (withLatchedBuffer t1.regs.resultLo (a + m) m' s) = .next t2 → t2.status.err = false →
    ∃ t, exec .compute (withLatchedBuffer c a (m + m') s) = .next t ∧ t.status.err = false ∧
      t.regs.resultLo = t2.regs.resultLo

/-- 20_memory.md R72: a COMPUTE whose buffer was not stable still completes, with some `Ok(v, 0)` or with READ_FAULT at
one of its accesses. Which one is a free value of the model (log entry 9). That a draw leaves the latch and the
working registers is the model's choice (log entry 4), and so is that the data space and, with READ_FAULT, RESULT stay where
the buffer also meets a device (log entry 10). -/
def Obligations.UnstableBufferIsADraw : Prop :=
  ∀ s : State, s.disturbed = true → s.bufferInRange →
    (∃ v, exec .compute s = .next (completedWith v 0 { s with draws := s.draws + 1 })) ∨
      ∃ x ∈ accessSeq s.params s.latch.addr.toNat s.latch.len.toNat,
        exec .compute s = .next (faultedAt (BitVec.ofNat 64 x.1) { s with draws := s.draws + 1 })

/-- 20_memory.md R68, R61: over readable memory with read side effects, or the register window, COMPUTE completes with
some RESULT_LO, a free value of the model (log entry 10). That the latch stays is the model's choice (log entry 4). -/
def Obligations.DeviceBufferCompletes : Prop :=
  ∀ s : State, s.params.legal = true → s.disturbed = false → s.bufferInRange →
    (∀ a, s.latch.covers a = true → s.space.readable a = true) →
    (∃ a, s.latch.covers a = true ∧ s.space.device a = true) →
    ∃ v w, exec .compute s = .next (completedWith v 0 { s with work := w, draws := s.draws + 1 })

/-! ## What every meaning keeps -/

/-- 10_state.md R36, 20_memory.md R60: a completion leaves every operand register, IRQ_EN, OVR, the latch, every byte and
region of the data space, the host, the schedule, the parameters and REG_BASE as they were. Two clauses are the model's
choice: that the latch keeps its values while IDLE (log entry 4), and that the data space stays where the buffer meets a
device, whose side effects 20_memory.md R68 leaves unspecified (log entry 10). -/
def Obligations.CompletionKeepsOperandsAndMemory : Prop :=
  ∀ (i : Instr) (s : State), ∃ t, exec i s = .next t ∧
    (∀ r ∈ operandRegs, r.read t = r.read s) ∧ t.irqEn = s.irqEn ∧ t.status.ovr = s.status.ovr ∧ t.latch = s.latch ∧
    t.space = s.space ∧ (∀ a, t.space.byteAt a = s.space.byteAt a) ∧ t.host = s.host ∧ t.turns = s.turns ∧
    t.params = s.params ∧ t.regBase = s.regBase

/-- 60_exceptions.md R186: from a state with no error on report, a command either writes its whole result and no error, or
reports one of the four codes and writes no part of its result; FAULT_ADDR changes with READ_FAULT alone. That a command
which reports an error leaves the working registers is the model's choice (log entry 4). -/
def Obligations.ErrorsArePrecise : Prop :=
  ∀ (i : Instr) (s : State), s.status.err = false → ∃ t, exec i s = .next t ∧ t.seq = .idle ∧ t.status.done = true ∧
    ((t.status.err = false ∧ t.status.errCode = s.status.errCode ∧ t.regs.faultAddr = s.regs.faultAddr) ∨
      (t.status.err = true ∧ 1 ≤ t.status.errCode.toNat ∧ t.status.errCode.toNat ≤ 4 ∧
        t.regs.resultLo = s.regs.resultLo ∧ t.regs.resultHi = s.regs.resultHi ∧ t.work = s.work ∧
        (t.status.errCode ≠ 4 → t.regs.faultAddr = s.regs.faultAddr)))

/-- 70_reset_and_hazards.md R217: rewriting an operand register before the completion does not affect the running command,
whichever word is latched: the write leaves the latch, and it commutes with the completion. -/
def Obligations.OperandWritesDoNotTouchTheCommand : Prop :=
  ∀ (s : State) (r : Reg) (v : Word), r ∈ operandRegs → (r.write v s).latch = s.latch ∧ (r.write v s).seq = s.seq ∧
    (∀ (i : Instr) (t : State), exec i s = .next t → exec i (r.write v s) = .next (r.write v t)) ∧
    ∀ t : State, engineMove s = .next t → engineMove (r.write v s) = .next (r.write v t)

/-! ## Acceptance, STATUS and the register window -/

/-- 10_state.md R43: acceptance latches what every operand register reads (R40), clears the last report and sets SEQ to BUSY,
which STATUS shows at once; OVR, RESULT and FAULT_ADDR stay. -/
def Obligations.AcceptanceLatchesTheOperands : Prop :=
  ∀ (s : State) (v : Word), s.seq = .idle →
    (Reg.write .cmd v s).latch =
      { cmd := v, crcIn := Reg.read .crcIn s, addr := Reg.read .addrHi s ++ Reg.read .addrLo s,
        len := Reg.read .lenHi s ++ Reg.read .lenLo s, opa := Reg.read .opaHi s ++ Reg.read .opaLo s,
        opb := Reg.read .opb s } ∧
    (Reg.write .cmd v s).status = { s.status with done := false, err := false, errCode := 0 } ∧
    (Reg.write .cmd v s).seq = .busy ∧ (Reg.write .cmd v s).regs = s.regs ∧ (Reg.write .cmd v s).irqEn = s.irqEn ∧
    (Reg.write .cmd v s).space = s.space ∧ (Reg.read .status (Reg.write .cmd v s)).getLsbD 0 = true

/-- 10_state.md R45: a CMD write while BUSY sets OVR and does nothing else. -/
def Obligations.BusyCmdWriteIsDropped : Prop :=
  ∀ (s : State) (v : Word), s.seq = .busy →
    Reg.write .cmd v s = { s with status := { s.status with ovr := true } }

/-- 10_state.md R26: where STATUS shows each field. -/
def Obligations.StatusShowsItsFields : Prop :=
  ∀ s : State, (Reg.read .status s).getLsbD 0 = decide (s.seq = .busy) ∧
    (Reg.read .status s).getLsbD 1 = s.status.done ∧ (Reg.read .status s).getLsbD 2 = s.status.err ∧
    (Reg.read .status s).getLsbD 3 = s.status.ovr ∧ (Reg.read .status s).extractLsb' 4 4 = s.status.errCode ∧
    (Reg.read .status s).extractLsb' 8 24 = 0

/-- 10_state.md R27: a STATUS write clears what bits 1, 2 and 3 name, never sets a bit, and touches nothing else. -/
def Obligations.StatusWriteOnlyClears : Prop :=
  ∀ (s : State) (w : Word),
    Reg.write .status w s = { s with status :=
      { done := if w.getLsbD 1 then false else s.status.done
        err := if w.getLsbD 2 then false else s.status.err
        errCode := if w.getLsbD 2 then 0 else s.status.errCode
        ovr := if w.getLsbD 3 then false else s.status.ovr } } ∧
    Reg.read .status (Reg.write .status w s) &&& ~~~Reg.read .status s = 0

/-- 10_state.md R22: which host accesses are admitted, and what an admitted access to a reserved offset, a read-only
register, CMD and reserved bits does; the offset of each register (R21); and that a read of RESULT and FAULT_ADDR gives what
the completions write there (R34, R35). -/
def Obligations.WindowAccessRules : Prop :=
  (∀ (s : State) (addr width : Nat) (e : Expr) (x : Var),
      (∀ off, width = 32 ∧ addr = s.regBase + off ∧ off < 0x100 ∧ off % 4 = 0 →
        runStmt (.write addr width e) s = .next (windowWrite off (e.eval s.host) s) ∧
        runStmt (.read addr width x) s = .next { s with host := s.host.setVar x (windowRead off s) }) ∧
      ((¬∃ off, width = 32 ∧ addr = s.regBase + off ∧ off < 0x100 ∧ off % 4 = 0) →
        (∃ why, runStmt (.write addr width e) s = .refused (.notAdmitted why)) ∧
        ∃ why, runStmt (.read addr width x) s = .refused (.notAdmitted why))) ∧
    (∀ (s : State) (off : Nat) (v : Word), 0x44 ≤ off → windowRead off s = 0 ∧ windowWrite off v s = s) ∧
    (∀ (s : State) (r : Reg) (v : Word), r ∈ readOnlyRegs → windowWrite r.offset v s = s) ∧
    (∀ s : State, windowRead 0x08 s = 0) ∧
    (∀ (s : State) (v : Word), (windowRead 0x10 (windowWrite 0x10 v s)) = (v &&& 1#32)) ∧
    (∀ (s : State) (r : Reg) (v : Word), windowRead r.offset s = r.read s ∧ windowWrite r.offset v s = r.write v s) ∧
    (∀ s : State, Reg.read .resultLo s = s.regs.resultLo ∧ Reg.read .resultHi s = s.regs.resultHi ∧
      Reg.read .faultAddrLo s = s.regs.faultAddrLo ∧ Reg.read .faultAddrHi s = s.regs.faultAddrHi) ∧
    (∀ r : Reg, (r.offset, r) ∈ registerMap) ∧ registerMap.length = 17 ∧
    ∀ (s : State) (v : Word), ∀ x ∈ registerMap, windowRead x.1 s = x.2.read s ∧ windowWrite x.1 v s = x.2.write v s

/-- 10_state.md R29 to R33: an operand register reads back the value written, all 32 bits, and a write changes no other
register, no latch and no command in progress. -/
def Obligations.OperandRegistersReadBack : Prop :=
  ∀ (s : State) (r : Reg) (v : Word), r ∈ operandRegs →
    r.read (r.write v s) = v ∧ (∀ r', r' ≠ r → r'.read (r.write v s) = r'.read s) ∧
      { r.write v s with regs := s.regs } = s

/-- 10_state.md R23, R24: ID and PARAM, of every legal instance, and that reset, host writes and every step leave them. -/
def Obligations.IdentityAndParameters : Prop :=
  (∀ (s : State) (v : Word), Reg.read .id s = 0x43524333 ∧ Reg.read .id (blockReset s) = 0x43524333 ∧
      Reg.read .param (blockReset s) = Reg.read .param s ∧ Reg.write .id v s = s ∧ Reg.write .param v s = s) ∧
    (∀ s : State, s.params.legal = true →
      ((Reg.read .param s).extractLsb' 0 16).toNat = s.params.threshold ∧
      ((Reg.read .param s).extractLsb' 16 15).toNat = s.params.maxBlockLen ∧
      (Reg.read .param s).getLsbD 31 = s.params.alignLeading) ∧
    Reg.read .param State.reset = 0x80800258 ∧
    ∀ s t : State, step s = .next t → Reg.read .id t = Reg.read .id s ∧ Reg.read .param t = Reg.read .param s

/-- 10_state.md R39, 60_exceptions.md R191: the interrupt output, its masking and its clearing; and that a write to IRQ_EN
keeps bit 0 and touches nothing else (R28). -/
def Obligations.InterruptFollowsDoneAndEnable : Prop :=
  ∀ s : State, (s.irq = true ↔ s.status.done = true ∧ s.irqEn = true) ∧
    (∀ v : Word, Reg.write .irqEn v s = { s with irqEn := v.getLsbD 0 }) ∧
    (∀ v : Word, v.getLsbD 0 = false → (Reg.write .irqEn v s).irq = false ∧ (Reg.write .irqEn v s).status = s.status) ∧
    (∀ v : Word, v.getLsbD 0 = true → (Reg.write .irqEn v s).irq = s.status.done) ∧
    (∀ v : Word, v.getLsbD 1 = true → (Reg.write .status v s).irq = false) ∧
    ∀ v : Word, s.seq = .idle → (Reg.write .cmd v s).irq = false

/-! ## Reset -/

/-- 70_reset_and_hazards.md R210, R211, 10_state.md R47: after reset, at any moment, every register but ID and PARAM reads
0, SEQ is IDLE and irq is 0; ID and PARAM read as before. That the parameters, REG_BASE, the data space, the host and the
schedule stay is the model's reading (log entries 16 and 2). The state the model starts in reads so too. -/
def Obligations.ResetClearsTheBlock : Prop :=
  (∀ s : State, s.params.legal = true → s.nextAgent = some .reset → ∃ t, step s = .next t ∧
      (∀ r : Reg, r ≠ .id → r ≠ .param → r.read t = 0) ∧ Reg.read .id t = Reg.read .id s ∧
      Reg.read .param t = Reg.read .param s ∧ t.seq = .idle ∧ t.irq = false ∧ t.params = s.params ∧
      t.regBase = s.regBase ∧ t.space = s.space ∧ t.host = s.host ∧ t.turns = s.turns.tail) ∧
    (∀ r : Reg, r ≠ .id → r ≠ .param → r.read State.reset = 0) ∧ State.reset.seq = .idle ∧ State.reset.irq = false ∧
    State.reset.params = Params.default

/-! ## Whole-machine rules -/

/-- The invariant holds in the state after reset. -/
def Obligations.ResetMeetsTheInvariant : Prop := State.reset.Inv

/-- Every step keeps the invariant: the STATUS rules of 10_state.md R26, the codes of 60_exceptions.md R181, the widths of
10_state.md R42, and the canonical form of the data space and the host's variables. -/
def Obligations.EveryStepKeepsTheInvariant : Prop :=
  ∀ s t : State, s.Inv → step s = .next t → t.Inv

/-- 10_state.md R34: RESULT changes only at a completion that reports no error, or at reset. -/
def Obligations.ResultChangesOnlyAtSuccess : Prop :=
  ∀ s t : State, s.Inv → step s = .next t → t.regs.resultLo ≠ s.regs.resultLo ∨ t.regs.resultHi ≠ s.regs.resultHi →
    s.nextAgent = some .reset ∨
      (s.nextAgent = some .engine ∧ s.seq = .busy ∧ t.seq = .idle ∧ t.status.done = true ∧ t.status.err = false)

/-- 10_state.md R35: FAULT_ADDR changes only at a completion that reports READ_FAULT, or at reset. -/
def Obligations.FaultAddrChangesOnlyAtReadFault : Prop :=
  ∀ s t : State, step s = .next t → t.regs.faultAddr ≠ s.regs.faultAddr →
    s.nextAgent = some .reset ∨
      (s.nextAgent = some .engine ∧ s.seq = .busy ∧ t.seq = .idle ∧ t.status.err = true ∧ t.status.errCode = 4)

/-- 60_exceptions.md R187: OVR, once set, stays until the host writes 1 to STATUS bit 3 or reset occurs, and only a CMD
write while BUSY sets it. -/
def Obligations.OverrunIsSticky : Prop :=
  ∀ s t : State, step s = .next t →
    (s.status.ovr = true → t.status.ovr = false →
      s.nextAgent = some .reset ∨
        (s.nextAgent = some .host ∧ ∃ e rest, s.host.program = .write (s.regBase + 0x0C) 32 e :: rest ∧
          (e.eval s.host).getLsbD 3 = true)) ∧
    (s.status.ovr = false → t.status.ovr = true →
      s.nextAgent = some .host ∧ s.seq = .busy ∧ t.seq = .busy ∧
        ∃ e rest, s.host.program = .write (s.regBase + 0x08) 32 e :: rest)

/-- 10_state.md R20: the host is the only agent that writes the data space, and no step changes the instance. The model's
choices: a change of the map is a host statement (log entry 6), REG_BASE is a field that stays (log entry 7), and a read of a
device by the engine leaves the data space (log entry 10). -/
def Obligations.OnlyTheHostWritesTheDataSpace : Prop :=
  ∀ s t : State, step s = .next t → t.params = s.params ∧ t.regBase = s.regBase ∧
    (t.space ≠ s.space → s.nextAgent = some .host ∧ ∃ rest,
      (∃ a b, s.host.program = .store a b :: rest) ∨ ∃ rs, s.host.program = .remap rs :: rest)

/-- 00_scope.md R7: the legal ranges, and that an instance outside them is refused. -/
def Obligations.IllegalInstanceIsRefused : Prop :=
  (∀ p : Params, p.legal = true ↔
      24 ≤ p.threshold ∧ p.threshold ≤ 65535 ∧ 1 ≤ p.maxBlockLen ∧ p.maxBlockLen ≤ 32767) ∧
    ∀ s : State, s.params.legal = false → step s = .refused .illegalInstance

/-- 60_exceptions.md R189: a CMD write that races a completion has both outcomes, by the schedule: before it the write is
dropped with OVR = 1 and the command is untouched, after it the write is accepted as a new command. -/
def Obligations.RacingCmdWriteHasBothOutcomes : Prop :=
  ∀ (s : State) (e : Expr) (rest : List HostStmt) (ts : List Agent), s.params.legal = true → s.seq = .busy →
    s.host.program = HostStmt.wr s.regBase .cmd e :: rest →
    (∃ t, step { s with turns := .host :: ts } = .next t ∧ t.seq = .busy ∧ t.status.ovr = true ∧ t.latch = s.latch) ∧
      ∃ t1 t2, step { s with turns := .engine :: .host :: ts } = .next t1 ∧ t1.status.done = true ∧
        step t1 = .next t2 ∧ t2.seq = .busy ∧ t2.status.ovr = s.status.ovr ∧ t2.latch.cmd = e.eval s.host

/-- 10_state.md R40, R47: while IDLE, the latch and the working registers are never used: a step from a state that differs
in them alone leads to a state that differs in them alone. -/
def Obligations.IdleLatchIsUnobservable : Prop :=
  ∀ (s t : State) (l : Latch) (w : Working), s.seq = .idle → step s = .next t →
    ∃ t', step { s with latch := l, work := w } = .next t' ∧ { t' with latch := t.latch, work := t.work } = t

/-- 30_encoding.md R87, R88: `WAIT` ends exactly when BUSY reads 0; until then it stays, and it touches no block state. And
the rest of the host's program: a move is its first statement; `WR`, `RD`, assignment and the wait for irq; the expressions;
the expansions of the pseudo-statements. The model's choices (log entry 12): one statement a move, a variable nothing
assigned reads 0, a shift takes its whole amount, 64-bit operands are literals. That a host without a statement does nothing
is its reading (log entry 18). -/
def Obligations.WaitEndsWhenIdle : Prop :=
  (∀ (s : State) (t : Var) (rest : List HostStmt), s.host.program = HostStmt.wait s.regBase t :: rest →
      ∃ s', hostMove s = .next s' ∧ { s' with host := s.host } = s ∧
        (s.seq = .idle → s'.host.program = rest) ∧ (s.seq = .busy → s'.host.program = s.host.program) ∧
        (Cells.wf unsetVar s.host.vars → assignedAlone t (Reg.read .status s) s.host s'.host)) ∧
    (∀ s : State, (s.host.program = [] → hostMove s = .next s) ∧
      ∀ st rest, s.host.program = st :: rest → hostMove s = runStmt st (withProgram rest s)) ∧
    (∀ (s : State) (r : Reg) (e : Expr),
      runStmt (HostStmt.wr s.regBase r e) s = .next (r.write (e.eval s.host) s)) ∧
    (∀ (s : State) (r : Reg) (e : Expr) (x : Var), Cells.wf unsetVar s.host.vars →
      (∃ h, runStmt (HostStmt.rd s.regBase r x) s = .next { s with host := h } ∧ h.program = s.host.program ∧
          assignedAlone x (r.read s) s.host h) ∧
        ∃ h, runStmt (.assign x e) s = .next { s with host := h } ∧ h.program = s.host.program ∧
          assignedAlone x (e.eval s.host) s.host h) ∧
    (∀ (s : State) (rest : List HostStmt), s.host.program = .waitIrq :: rest →
      (s.irq = true → hostMove s = .next (withProgram rest s)) ∧ (s.irq = false → hostMove s = .next s)) ∧
    (∀ (h : HostAgent) (v : Word) (x : Var) (a b : Expr),
      (Expr.lit v).eval h = v ∧ (Expr.var x).eval h = h.var x ∧ (h.vars = [] → h.var x = 0) ∧
      (∀ j, ((Expr.xor a b).eval h).getLsbD j = ((a.eval h).getLsbD j != (b.eval h).getLsbD j)) ∧
      (∀ j, ((Expr.and a b).eval h).getLsbD j = ((a.eval h).getLsbD j && (b.eval h).getLsbD j)) ∧
      (∀ j, ((Expr.or a b).eval h).getLsbD j = ((a.eval h).getLsbD j || (b.eval h).getLsbD j)) ∧
      ((Expr.shl a b).eval h).toNat = (a.eval h).toNat * 2 ^ (b.eval h).toNat % 2 ^ 32 ∧
      ((Expr.shr a b).eval h).toNat = (a.eval h).toNat / 2 ^ (b.eval h).toNat) ∧
    ∀ (base : Nat) (i : Instr) (w : Word) (addr len v : DWord) (seed : Expr) (t x : Var),
      HostStmt.cmd base i = .write (base + 0x08) 32 (.lit (encode i)) ∧
      HostStmt.cmdWord base w = .write (base + 0x08) 32 (.lit w) ∧
      HostStmt.wait base t = .pollWhileSet (base + 0x0C) t 0 ∧
      HostStmt.setBuf base addr len =
        [.write (base + 0x18) 32 (.lit (addr.extractLsb' 0 32)), .write (base + 0x1C) 32 (.lit (addr.extractLsb' 32 32)),
          .write (base + 0x20) 32 (.lit (len.extractLsb' 0 32)), .write (base + 0x24) 32 (.lit (len.extractLsb' 32 32))] ∧
      HostStmt.setA base v =
        [.write (base + 0x28) 32 (.lit (v.extractLsb' 0 32)), .write (base + 0x2C) 32 (.lit (v.extractLsb' 32 32))] ∧
      HostStmt.crc32c base seed addr len t x =
        [.write (base + 0x14) 32 seed] ++ HostStmt.setBuf base addr len ++
          [.write (base + 0x08) 32 (.lit 0x00000001), .pollWhileSet (base + 0x0C) t 0, .read (base + 0x34) 32 x]

/-! ## Stores, the memory map and buffer stability -/

/-- What a host store and a change of the map do. A store at an address of the data space (20_memory.md R60) puts the byte
there and leaves every other byte; past it the machine faults (log entry 14). A change of the map changes the map alone. Each
marks the buffer as not stable (R72, 70_reset_and_hazards.md R214; log entry 9) exactly when it meets the running command's
buffer. That a store at a device's address is a plain byte too is the model's choice (log entry 21). -/
def Obligations.StoresAndRemapsTakeEffect : Prop :=
  (∀ (s : State) (a : Nat) (b : Byte), Memory.wf s.space.bytes → a < 2 ^ 64 →
      ∃ t, runStmt (.store a b) s = .next t ∧ t.space.byteAt a = b ∧
        (∀ x, x ≠ a → t.space.byteAt x = s.space.byteAt x) ∧ t.space.regions = s.space.regions ∧
        (t.disturbed = true ↔ s.disturbed = true ∨ inRunningBuffer s a) ∧
        { t with space := s.space, disturbed := s.disturbed } = s) ∧
    (∀ (s : State) (a : Nat) (b : Byte), 2 ^ 64 ≤ a → runStmt (.store a b) s = .fault .outsideDataSpace) ∧
    ∀ (s : State) (rs : List Region),
      ∃ t, runStmt (.remap rs) s = .next t ∧ t.space = { s.space with regions := rs } ∧
        (t.disturbed = true ↔ s.disturbed = true ∨ remapBreaksBuffer s rs) ∧
        { t with space := s.space, disturbed := s.disturbed } = s

/-- 20_memory.md R72, 70_reset_and_hazards.md R214: the record of a broken buffer (log entry 9), over every step. It is set
after a step exactly when it was set and the command still runs, or the step is the host's and stores into the running
command's buffer or changes the map on it. -/
def Obligations.StabilityIsTrackedExactly : Prop :=
  ∀ s t : State, s.Inv → step s = .next t →
    (t.disturbed = true ↔
      (s.disturbed = true ∧ t.seq = .busy) ∨
        (s.nextAgent = some .host ∧ ∃ rest,
          (∃ a b, s.host.program = .store a b :: rest ∧ inRunningBuffer s a) ∨
            ∃ rs, s.host.program = .remap rs :: rest ∧ remapBreaksBuffer s rs))

/-! ## The model's data -/

/-- The canonical form of the data space (log entry 5): two memories in it that read alike at every address are equal. -/
def Obligations.CanonicalMemoriesAreEqual : Prop :=
  ∀ d e : DataSpace, Memory.wf d.bytes → Memory.wf e.bytes → (∀ a, d.byteAt a = e.byteAt a) → d.bytes = e.bytes

/-- The model's test for a changed map (log entry 9) is exact: it holds when the two maps agree at every address of the
range. -/
def Obligations.MapChangesAreSeenExactly : Prop :=
  ∀ (d e : DataSpace) (a m : Nat), d.sameMapOn e a m = true ↔
    ∀ x, a ≤ x → x < a + m → d.readable x = e.readable x ∧ d.device x = e.device x
end

