-- ==== Sys2Proof/Laws/Cells.lean ====
section
/-! SUPPORT. Sparse data: read after write, and the canonical form that writing keeps. -/

namespace Sys2Proof.Machine

variable {w : Nat} {d : BitVec w}

/-- A key below every listed key reads as an unlisted one does. -/
theorem Cells.get_of_lt_all {l : List (Nat × BitVec w)} {a : Nat} (h : ∀ x ∈ l, a < x.1) : Cells.get d l a = d := by
  induction l with
  | nil => rfl
  | cons x l ih =>
    have hx := h x (List.mem_cons_self ..)
    rw [Cells.get, if_neg (by omega)]
    exact ih fun y hy => h y (List.mem_cons_of_mem _ hy)

/-- Reading the key just written gives the value written. -/
@[simp] theorem Cells.get_put_self (l : List (Nat × BitVec w)) (a : Nat) (v : BitVec w) (h : Cells.wf d l) :
    Cells.get d (Cells.put d l a v) a = v := by
  induction l with
  | nil => by_cases hv : v = d <;> simp [Cells.put, Cells.get, hv]
  | cons x l ih =>
    obtain ⟨hp, hd⟩ := h
    obtain ⟨hx, hp⟩ := List.pairwise_cons.1 hp
    have ih := ih ⟨hp, fun y hy => hd y (List.mem_cons_of_mem _ hy)⟩
    obtain ⟨k, u⟩ := x
    rw [Cells.put]
    by_cases h1 : a < k
    · have hall : ∀ y ∈ (k, u) :: l, a < y.1 := by
        intro y hy
        rcases List.mem_cons.1 hy with rfl | hy
        · exact h1
        · exact h1.trans (hx y hy)
      by_cases hv : v = d
      · simp only [if_pos h1, if_pos hv]
        rw [Cells.get_of_lt_all hall, hv]
      · simp [h1, hv, Cells.get]
    · by_cases h2 : a = k
      · subst h2
        by_cases hv : v = d
        · simp only [if_neg h1, if_pos hv, if_true]
          rw [Cells.get_of_lt_all hx, hv]
        · simp [hv, Cells.get]
      · simp [h1, h2, Cells.get, ih]

/-- A write leaves every other key alone. -/
@[simp] theorem Cells.get_put_ne (l : List (Nat × BitVec w)) (a b : Nat) (v : BitVec w) (h : b ≠ a) :
    Cells.get d (Cells.put d l a v) b = Cells.get d l b := by
  induction l with
  | nil => by_cases hv : v = d <;> simp [Cells.put, Cells.get, hv, h]
  | cons x l ih =>
    obtain ⟨k, u⟩ := x
    rw [Cells.put]
    split
    · split <;> simp [Cells.get, h]
    · split
      · next h2 =>
        subst h2
        split <;> simp [Cells.get, h]
      · simp [Cells.get, ih]

/-- Every entry after a write is an old one or the one written. -/
theorem Cells.mem_put {l : List (Nat × BitVec w)} {a : Nat} {v : BitVec w} {x : Nat × BitVec w}
    (h : x ∈ Cells.put d l a v) : x ∈ l ∨ (x = (a, v) ∧ v ≠ d) := by
  induction l with
  | nil =>
    rw [Cells.put] at h
    split at h
    · simp at h
    · next hv => exact .inr ⟨by simpa using h, hv⟩
  | cons y l ih =>
    obtain ⟨k, u⟩ := y
    rw [Cells.put] at h
    split at h
    · split at h
      · exact .inl h
      · next hv =>
        rcases List.mem_cons.1 h with rfl | h
        · exact .inr ⟨rfl, hv⟩
        · exact .inl h
    · split at h
      · split at h
        · exact .inl (List.mem_cons_of_mem _ h)
        · next hv =>
          rcases List.mem_cons.1 h with rfl | h
          · exact .inr ⟨rfl, hv⟩
          · exact .inl (List.mem_cons_of_mem _ h)
      · rcases List.mem_cons.1 h with rfl | h
        · exact .inl (List.mem_cons_self ..)
        · exact (ih h).imp_left (List.mem_cons_of_mem _)

/-- A write keeps the canonical form. -/
theorem Cells.wf_put {l : List (Nat × BitVec w)} (h : Cells.wf d l) (a : Nat) (v : BitVec w) :
    Cells.wf d (Cells.put d l a v) := by
  refine ⟨?_, fun x hx => ?_⟩
  · obtain ⟨hp, hd⟩ := h
    induction l with
    | nil =>
      rw [Cells.put]
      split
      · exact List.Pairwise.nil
      · exact List.pairwise_singleton ..
    | cons y l ih =>
      obtain ⟨k, u⟩ := y
      obtain ⟨hy, hl⟩ := List.pairwise_cons.1 hp
      have ih := ih hl fun z hz => hd z (List.mem_cons_of_mem _ hz)
      rw [Cells.put]
      split
      · next h1 =>
        split
        · exact hp
        · refine List.pairwise_cons.2 ⟨fun z hz => ?_, hp⟩
          rcases List.mem_cons.1 hz with rfl | hz
          · exact h1
          · exact h1.trans (hy z hz)
      · next h1 =>
        split
        · next h2 =>
          subst h2
          split
          · exact hl
          · exact List.pairwise_cons.2 ⟨hy, hl⟩
        · next h2 =>
          refine List.pairwise_cons.2 ⟨fun z hz => ?_, ih⟩
          rcases Cells.mem_put hz with hz | ⟨rfl, -⟩
          · exact hy z hz
          · show k < a
            omega
  · rcases Cells.mem_put hx with hx | ⟨rfl, hv⟩
    · exact h.2 x hx
    · exact hv

end Sys2Proof.Machine
end

