-- ==== Sys2Proof/Laws/State.lean ====
section
/-! SUPPORT. One lemma per field per update of State, true by rfl, so that no proof unfolds a record update. -/

namespace Sys2Proof.Machine

/-! ### acceptCmd -/

@[simp] theorem acceptCmd_params (v : Word) (s : State) : (acceptCmd v s).params = s.params := rfl
@[simp] theorem acceptCmd_regBase (v : Word) (s : State) : (acceptCmd v s).regBase = s.regBase := rfl
@[simp] theorem acceptCmd_regs (v : Word) (s : State) : (acceptCmd v s).regs = s.regs := rfl
@[simp] theorem acceptCmd_irqEn (v : Word) (s : State) : (acceptCmd v s).irqEn = s.irqEn := rfl
@[simp] theorem acceptCmd_status (v : Word) (s : State) : (acceptCmd v s).status = s.status.accept := rfl
@[simp] theorem acceptCmd_seq (v : Word) (s : State) : (acceptCmd v s).seq = .busy := rfl
@[simp] theorem acceptCmd_latch (v : Word) (s : State) :
    (acceptCmd v s).latch =
    { cmd := v, crcIn := s.regs.crcIn, addr := s.regs.addr, len := s.regs.len, opa := s.regs.opa, opb := s.regs.opb } := rfl
@[simp] theorem acceptCmd_work (v : Word) (s : State) : (acceptCmd v s).work = s.work := rfl
@[simp] theorem acceptCmd_space (v : Word) (s : State) : (acceptCmd v s).space = s.space := rfl
@[simp] theorem acceptCmd_disturbed (v : Word) (s : State) : (acceptCmd v s).disturbed = false := rfl
@[simp] theorem acceptCmd_draws (v : Word) (s : State) : (acceptCmd v s).draws = s.draws := rfl
@[simp] theorem acceptCmd_host (v : Word) (s : State) : (acceptCmd v s).host = s.host := rfl
@[simp] theorem acceptCmd_turns (v : Word) (s : State) : (acceptCmd v s).turns = s.turns := rfl

/-! ### dropCmd -/

@[simp] theorem dropCmd_params (s : State) : (dropCmd s).params = s.params := rfl
@[simp] theorem dropCmd_regBase (s : State) : (dropCmd s).regBase = s.regBase := rfl
@[simp] theorem dropCmd_regs (s : State) : (dropCmd s).regs = s.regs := rfl
@[simp] theorem dropCmd_irqEn (s : State) : (dropCmd s).irqEn = s.irqEn := rfl
@[simp] theorem dropCmd_status (s : State) : (dropCmd s).status = s.status.overrun := rfl
@[simp] theorem dropCmd_seq (s : State) : (dropCmd s).seq = s.seq := rfl
@[simp] theorem dropCmd_latch (s : State) : (dropCmd s).latch = s.latch := rfl
@[simp] theorem dropCmd_work (s : State) : (dropCmd s).work = s.work := rfl
@[simp] theorem dropCmd_space (s : State) : (dropCmd s).space = s.space := rfl
@[simp] theorem dropCmd_disturbed (s : State) : (dropCmd s).disturbed = s.disturbed := rfl
@[simp] theorem dropCmd_draws (s : State) : (dropCmd s).draws = s.draws := rfl
@[simp] theorem dropCmd_host (s : State) : (dropCmd s).host = s.host := rfl
@[simp] theorem dropCmd_turns (s : State) : (dropCmd s).turns = s.turns := rfl

/-! ### finish -/

@[simp] theorem finish_params (s : State) : (finish s).params = s.params := rfl
@[simp] theorem finish_regBase (s : State) : (finish s).regBase = s.regBase := rfl
@[simp] theorem finish_regs (s : State) : (finish s).regs = s.regs := rfl
@[simp] theorem finish_irqEn (s : State) : (finish s).irqEn = s.irqEn := rfl
@[simp] theorem finish_status (s : State) : (finish s).status = s.status.complete := rfl
@[simp] theorem finish_seq (s : State) : (finish s).seq = .idle := rfl
@[simp] theorem finish_latch (s : State) : (finish s).latch = s.latch := rfl
@[simp] theorem finish_work (s : State) : (finish s).work = s.work := rfl
@[simp] theorem finish_space (s : State) : (finish s).space = s.space := rfl
@[simp] theorem finish_disturbed (s : State) : (finish s).disturbed = false := rfl
@[simp] theorem finish_draws (s : State) : (finish s).draws = s.draws := rfl
@[simp] theorem finish_host (s : State) : (finish s).host = s.host := rfl
@[simp] theorem finish_turns (s : State) : (finish s).turns = s.turns := rfl

/-! ### reportError -/

@[simp] theorem reportError_params (e : CmdError) (s : State) : (reportError e s).params = s.params := rfl
@[simp] theorem reportError_regBase (e : CmdError) (s : State) : (reportError e s).regBase = s.regBase := rfl
@[simp] theorem reportError_irqEn (e : CmdError) (s : State) : (reportError e s).irqEn = s.irqEn := rfl
@[simp] theorem reportError_status (e : CmdError) (s : State) : (reportError e s).status = s.status.report e := rfl
@[simp] theorem reportError_seq (e : CmdError) (s : State) : (reportError e s).seq = s.seq := rfl
@[simp] theorem reportError_latch (e : CmdError) (s : State) : (reportError e s).latch = s.latch := rfl
@[simp] theorem reportError_work (e : CmdError) (s : State) : (reportError e s).work = s.work := rfl
@[simp] theorem reportError_space (e : CmdError) (s : State) : (reportError e s).space = s.space := rfl
@[simp] theorem reportError_disturbed (e : CmdError) (s : State) : (reportError e s).disturbed = s.disturbed := rfl
@[simp] theorem reportError_draws (e : CmdError) (s : State) : (reportError e s).draws = s.draws := rfl
@[simp] theorem reportError_host (e : CmdError) (s : State) : (reportError e s).host = s.host := rfl
@[simp] theorem reportError_turns (e : CmdError) (s : State) : (reportError e s).turns = s.turns := rfl

/-! ### acknowledge -/

@[simp] theorem acknowledge_params (w : Word) (s : State) : (acknowledge w s).params = s.params := rfl
@[simp] theorem acknowledge_regBase (w : Word) (s : State) : (acknowledge w s).regBase = s.regBase := rfl
@[simp] theorem acknowledge_regs (w : Word) (s : State) : (acknowledge w s).regs = s.regs := rfl
@[simp] theorem acknowledge_irqEn (w : Word) (s : State) : (acknowledge w s).irqEn = s.irqEn := rfl
@[simp] theorem acknowledge_status (w : Word) (s : State) :
    (acknowledge w s).status = s.status.writeOneToClear w := rfl
@[simp] theorem acknowledge_seq (w : Word) (s : State) : (acknowledge w s).seq = s.seq := rfl
@[simp] theorem acknowledge_latch (w : Word) (s : State) : (acknowledge w s).latch = s.latch := rfl
@[simp] theorem acknowledge_work (w : Word) (s : State) : (acknowledge w s).work = s.work := rfl
@[simp] theorem acknowledge_space (w : Word) (s : State) : (acknowledge w s).space = s.space := rfl
@[simp] theorem acknowledge_disturbed (w : Word) (s : State) : (acknowledge w s).disturbed = s.disturbed := rfl
@[simp] theorem acknowledge_draws (w : Word) (s : State) : (acknowledge w s).draws = s.draws := rfl
@[simp] theorem acknowledge_host (w : Word) (s : State) : (acknowledge w s).host = s.host := rfl
@[simp] theorem acknowledge_turns (w : Word) (s : State) : (acknowledge w s).turns = s.turns := rfl

/-! ### blockReset -/

@[simp] theorem blockReset_params (s : State) : (blockReset s).params = s.params := rfl
@[simp] theorem blockReset_regBase (s : State) : (blockReset s).regBase = s.regBase := rfl
@[simp] theorem blockReset_regs (s : State) : (blockReset s).regs = Regs.reset := rfl
@[simp] theorem blockReset_irqEn (s : State) : (blockReset s).irqEn = false := rfl
@[simp] theorem blockReset_status (s : State) : (blockReset s).status = Status.reset := rfl
@[simp] theorem blockReset_seq (s : State) : (blockReset s).seq = .idle := rfl
@[simp] theorem blockReset_latch (s : State) : (blockReset s).latch = Latch.reset := rfl
@[simp] theorem blockReset_work (s : State) : (blockReset s).work = Working.reset := rfl
@[simp] theorem blockReset_space (s : State) : (blockReset s).space = s.space := rfl
@[simp] theorem blockReset_disturbed (s : State) : (blockReset s).disturbed = false := rfl
@[simp] theorem blockReset_draws (s : State) : (blockReset s).draws = s.draws := rfl
@[simp] theorem blockReset_host (s : State) : (blockReset s).host = s.host := rfl
@[simp] theorem blockReset_turns (s : State) : (blockReset s).turns = s.turns := rfl

/-! ### hostRemap -/

@[simp] theorem hostRemap_params (rs : List Region) (s : State) : (hostRemap rs s).params = s.params := rfl
@[simp] theorem hostRemap_regBase (rs : List Region) (s : State) : (hostRemap rs s).regBase = s.regBase := rfl
@[simp] theorem hostRemap_regs (rs : List Region) (s : State) : (hostRemap rs s).regs = s.regs := rfl
@[simp] theorem hostRemap_irqEn (rs : List Region) (s : State) : (hostRemap rs s).irqEn = s.irqEn := rfl
@[simp] theorem hostRemap_status (rs : List Region) (s : State) : (hostRemap rs s).status = s.status := rfl
@[simp] theorem hostRemap_seq (rs : List Region) (s : State) : (hostRemap rs s).seq = s.seq := rfl
@[simp] theorem hostRemap_latch (rs : List Region) (s : State) : (hostRemap rs s).latch = s.latch := rfl
@[simp] theorem hostRemap_work (rs : List Region) (s : State) : (hostRemap rs s).work = s.work := rfl
@[simp] theorem hostRemap_space (rs : List Region) (s : State) :
    (hostRemap rs s).space = { s.space with regions := rs } := rfl
@[simp] theorem hostRemap_disturbed (rs : List Region) (s : State) : (hostRemap rs s).disturbed = (s.disturbed ||
      (s.isBusy && !s.space.sameMapOn { s.space with regions := rs } s.latch.addr.toNat s.latch.len.toNat)) := rfl
@[simp] theorem hostRemap_draws (rs : List Region) (s : State) : (hostRemap rs s).draws = s.draws := rfl
@[simp] theorem hostRemap_host (rs : List Region) (s : State) : (hostRemap rs s).host = s.host := rfl
@[simp] theorem hostRemap_turns (rs : List Region) (s : State) : (hostRemap rs s).turns = s.turns := rfl

/-! ### tookDraw -/

@[simp] theorem tookDraw_params (s : State) : (tookDraw s).params = s.params := rfl
@[simp] theorem tookDraw_regBase (s : State) : (tookDraw s).regBase = s.regBase := rfl
@[simp] theorem tookDraw_regs (s : State) : (tookDraw s).regs = s.regs := rfl
@[simp] theorem tookDraw_irqEn (s : State) : (tookDraw s).irqEn = s.irqEn := rfl
@[simp] theorem tookDraw_status (s : State) : (tookDraw s).status = s.status := rfl
@[simp] theorem tookDraw_seq (s : State) : (tookDraw s).seq = s.seq := rfl
@[simp] theorem tookDraw_latch (s : State) : (tookDraw s).latch = s.latch := rfl
@[simp] theorem tookDraw_work (s : State) : (tookDraw s).work = s.work := rfl
@[simp] theorem tookDraw_space (s : State) : (tookDraw s).space = s.space := rfl
@[simp] theorem tookDraw_disturbed (s : State) : (tookDraw s).disturbed = s.disturbed := rfl
@[simp] theorem tookDraw_draws (s : State) : (tookDraw s).draws = s.draws + 1 := rfl
@[simp] theorem tookDraw_host (s : State) : (tookDraw s).host = s.host := rfl
@[simp] theorem tookDraw_turns (s : State) : (tookDraw s).turns = s.turns := rfl

/-! ### popTurn -/

@[simp] theorem popTurn_params (s : State) : (popTurn s).params = s.params := rfl
@[simp] theorem popTurn_regBase (s : State) : (popTurn s).regBase = s.regBase := rfl
@[simp] theorem popTurn_regs (s : State) : (popTurn s).regs = s.regs := rfl
@[simp] theorem popTurn_irqEn (s : State) : (popTurn s).irqEn = s.irqEn := rfl
@[simp] theorem popTurn_status (s : State) : (popTurn s).status = s.status := rfl
@[simp] theorem popTurn_seq (s : State) : (popTurn s).seq = s.seq := rfl
@[simp] theorem popTurn_latch (s : State) : (popTurn s).latch = s.latch := rfl
@[simp] theorem popTurn_work (s : State) : (popTurn s).work = s.work := rfl
@[simp] theorem popTurn_space (s : State) : (popTurn s).space = s.space := rfl
@[simp] theorem popTurn_disturbed (s : State) : (popTurn s).disturbed = s.disturbed := rfl
@[simp] theorem popTurn_draws (s : State) : (popTurn s).draws = s.draws := rfl
@[simp] theorem popTurn_host (s : State) : (popTurn s).host = s.host := rfl
@[simp] theorem popTurn_turns (s : State) : (popTurn s).turns = s.turns.tail := rfl

/-! ### popStmt -/

@[simp] theorem popStmt_params (s : State) : (popStmt s).params = s.params := rfl
@[simp] theorem popStmt_regBase (s : State) : (popStmt s).regBase = s.regBase := rfl
@[simp] theorem popStmt_regs (s : State) : (popStmt s).regs = s.regs := rfl
@[simp] theorem popStmt_irqEn (s : State) : (popStmt s).irqEn = s.irqEn := rfl
@[simp] theorem popStmt_status (s : State) : (popStmt s).status = s.status := rfl
@[simp] theorem popStmt_seq (s : State) : (popStmt s).seq = s.seq := rfl
@[simp] theorem popStmt_latch (s : State) : (popStmt s).latch = s.latch := rfl
@[simp] theorem popStmt_work (s : State) : (popStmt s).work = s.work := rfl
@[simp] theorem popStmt_space (s : State) : (popStmt s).space = s.space := rfl
@[simp] theorem popStmt_disturbed (s : State) : (popStmt s).disturbed = s.disturbed := rfl
@[simp] theorem popStmt_draws (s : State) : (popStmt s).draws = s.draws := rfl
@[simp] theorem popStmt_host (s : State) : (popStmt s).host = { s.host with program := s.host.program.tail } := rfl
@[simp] theorem popStmt_turns (s : State) : (popStmt s).turns = s.turns := rfl

/-! ### pushStmt -/

@[simp] theorem pushStmt_params (st : HostStmt) (s : State) : (pushStmt st s).params = s.params := rfl
@[simp] theorem pushStmt_regBase (st : HostStmt) (s : State) : (pushStmt st s).regBase = s.regBase := rfl
@[simp] theorem pushStmt_regs (st : HostStmt) (s : State) : (pushStmt st s).regs = s.regs := rfl
@[simp] theorem pushStmt_irqEn (st : HostStmt) (s : State) : (pushStmt st s).irqEn = s.irqEn := rfl
@[simp] theorem pushStmt_status (st : HostStmt) (s : State) : (pushStmt st s).status = s.status := rfl
@[simp] theorem pushStmt_seq (st : HostStmt) (s : State) : (pushStmt st s).seq = s.seq := rfl
@[simp] theorem pushStmt_latch (st : HostStmt) (s : State) : (pushStmt st s).latch = s.latch := rfl
@[simp] theorem pushStmt_work (st : HostStmt) (s : State) : (pushStmt st s).work = s.work := rfl
@[simp] theorem pushStmt_space (st : HostStmt) (s : State) : (pushStmt st s).space = s.space := rfl
@[simp] theorem pushStmt_disturbed (st : HostStmt) (s : State) : (pushStmt st s).disturbed = s.disturbed := rfl
@[simp] theorem pushStmt_draws (st : HostStmt) (s : State) : (pushStmt st s).draws = s.draws := rfl
@[simp] theorem pushStmt_host (st : HostStmt) (s : State) :
    (pushStmt st s).host = { s.host with program := st :: s.host.program } := rfl
@[simp] theorem pushStmt_turns (st : HostStmt) (s : State) : (pushStmt st s).turns = s.turns := rfl

/-! ### setHostVar -/

@[simp] theorem setHostVar_params (x : Var) (v : Word) (s : State) : (setHostVar x v s).params = s.params := rfl
@[simp] theorem setHostVar_regBase (x : Var) (v : Word) (s : State) : (setHostVar x v s).regBase = s.regBase := rfl
@[simp] theorem setHostVar_regs (x : Var) (v : Word) (s : State) : (setHostVar x v s).regs = s.regs := rfl
@[simp] theorem setHostVar_irqEn (x : Var) (v : Word) (s : State) : (setHostVar x v s).irqEn = s.irqEn := rfl
@[simp] theorem setHostVar_status (x : Var) (v : Word) (s : State) : (setHostVar x v s).status = s.status := rfl
@[simp] theorem setHostVar_seq (x : Var) (v : Word) (s : State) : (setHostVar x v s).seq = s.seq := rfl
@[simp] theorem setHostVar_latch (x : Var) (v : Word) (s : State) : (setHostVar x v s).latch = s.latch := rfl
@[simp] theorem setHostVar_work (x : Var) (v : Word) (s : State) : (setHostVar x v s).work = s.work := rfl
@[simp] theorem setHostVar_space (x : Var) (v : Word) (s : State) : (setHostVar x v s).space = s.space := rfl
@[simp] theorem setHostVar_disturbed (x : Var) (v : Word) (s : State) :
    (setHostVar x v s).disturbed = s.disturbed := rfl
@[simp] theorem setHostVar_draws (x : Var) (v : Word) (s : State) : (setHostVar x v s).draws = s.draws := rfl
@[simp] theorem setHostVar_host (x : Var) (v : Word) (s : State) : (setHostVar x v s).host = s.host.setVar x v := rfl
@[simp] theorem setHostVar_turns (x : Var) (v : Word) (s : State) : (setHostVar x v s).turns = s.turns := rfl

/-! ### complete: the outcome decides RESULT, FAULT_ADDR and the error fields; the rest is common -/

@[simp] theorem complete_params (o : CmdOutcome) (s : State) : (complete o s).params = s.params := by cases o <;> rfl
@[simp] theorem complete_regBase (o : CmdOutcome) (s : State) : (complete o s).regBase = s.regBase := by cases o <;> rfl
@[simp] theorem complete_irqEn (o : CmdOutcome) (s : State) : (complete o s).irqEn = s.irqEn := by cases o <;> rfl
@[simp] theorem complete_latch (o : CmdOutcome) (s : State) : (complete o s).latch = s.latch := by cases o <;> rfl
@[simp] theorem complete_work (o : CmdOutcome) (s : State) : (complete o s).work = s.work := by cases o <;> rfl
@[simp] theorem complete_space (o : CmdOutcome) (s : State) : (complete o s).space = s.space := by cases o <;> rfl
@[simp] theorem complete_draws (o : CmdOutcome) (s : State) : (complete o s).draws = s.draws := by cases o <;> rfl
@[simp] theorem complete_host (o : CmdOutcome) (s : State) : (complete o s).host = s.host := by cases o <;> rfl
@[simp] theorem complete_turns (o : CmdOutcome) (s : State) : (complete o s).turns = s.turns := by cases o <;> rfl
@[simp] theorem complete_seq (o : CmdOutcome) (s : State) : (complete o s).seq = .idle := by cases o <;> rfl
@[simp] theorem complete_disturbed (o : CmdOutcome) (s : State) : (complete o s).disturbed = false := by cases o <;> rfl
@[simp] theorem complete_ok_regs (lo hi : Word) (s : State) :
    (complete (.ok lo hi) s).regs = s.regs.withResult lo hi := rfl
@[simp] theorem complete_ok_status (lo hi : Word) (s : State) :
    (complete (.ok lo hi) s).status = s.status.complete := rfl
@[simp] theorem complete_err_regs (e : CmdError) (s : State) :
    (complete (.err e) s).regs = (reportError e s).regs := rfl
@[simp] theorem complete_err_status (e : CmdError) (s : State) :
    (complete (.err e) s).status = (s.status.report e).complete := rfl
@[simp] theorem reportError_readFault_regs (a : DWord) (s : State) :
    (reportError (.readFault a) s).regs = s.regs.withFaultAddr a := rfl
@[simp] theorem reportError_illegalCmd_regs (s : State) : (reportError .illegalCmd s).regs = s.regs := rfl
@[simp] theorem reportError_badBlockLen_regs (s : State) : (reportError .badBlockLen s).regs = s.regs := rfl
@[simp] theorem reportError_range_regs (s : State) : (reportError .range s).regs = s.regs := rfl

@[simp] theorem isBusy_iff (s : State) : s.isBusy = true ↔ s.seq = .busy := by simp [State.isBusy]

@[simp] theorem isBusy_eq_false_iff (s : State) : s.isBusy = false ↔ s.seq = .idle := by
  cases h : s.seq <;> simp [State.isBusy, h]

end Sys2Proof.Machine
end

