-- ==== Sys2Proof/Laws/Ops.lean ====
section
/-! SUPPORT. What each shared operation can do, said once: the data space, the memory port, the region map, host accesses. -/

namespace Sys2Proof.Machine

/-! ### The data space -/

@[simp] theorem writeByte_regions (d : DataSpace) (a : Nat) (b : Byte) : (d.writeByte a b).regions = d.regions := rfl

/-- Reading the byte just stored gives the byte stored. -/
theorem byteAt_writeByte_self (d : DataSpace) (a : Nat) (b : Byte) (h : Memory.wf d.bytes) :
    (d.writeByte a b).byteAt a = b :=
  Cells.get_put_self d.bytes a b h.1

/-- A store leaves every other byte alone. -/
theorem byteAt_writeByte_ne (d : DataSpace) (a x : Nat) (b : Byte) (h : x ≠ a) :
    (d.writeByte a b).byteAt x = d.byteAt x :=
  Cells.get_put_ne d.bytes a x b h

/-- A store inside the address space keeps the canonical form. -/
theorem memory_wf_writeByte {d : DataSpace} (h : Memory.wf d.bytes) {a : Nat} (ha : a < dataSpaceSize) (b : Byte) :
    Memory.wf (d.writeByte a b).bytes := by
  refine ⟨Cells.wf_put h.1 a b, fun x hx => ?_⟩
  rcases Cells.mem_put hx with hx | ⟨rfl, -⟩
  · exact h.2 x hx
  · exact ha

@[simp] theorem bytesAt_length (d : DataSpace) (a m : Nat) : (d.bytesAt a m).length = m := by simp [DataSpace.bytesAt]

@[simp] theorem bytesAt_zero (d : DataSpace) (a : Nat) : d.bytesAt a 0 = [] := rfl

theorem bytesAt_succ (d : DataSpace) (a m : Nat) : d.bytesAt a (m + 1) = d.byteAt a :: d.bytesAt (a + 1) m := rfl

/-- The bytes of two adjoining ranges are the bytes of their union. -/
theorem bytesAt_append (d : DataSpace) (a m k : Nat) :
    d.bytesAt a (m + k) = d.bytesAt a m ++ d.bytesAt (a + m) k := by
  simp [DataSpace.bytesAt, ← List.map_append, List.range'_append_1]

@[simp] theorem crcRef_nil (c : Word) : crcRef c [] = c := rfl

theorem crcRef_cons (c : Word) (b : Byte) (bs : List Byte) : crcRef c (b :: bs) = crcRef (step1 c b) bs := rfl

theorem crcRef_append (c : Word) (xs ys : List Byte) : crcRef c (xs ++ ys) = crcRef (crcRef c xs) ys := by
  simp [crcRef]

theorem region_contains_iff (r : Region) (a : Nat) : r.contains a = true ↔ r.base ≤ a ∧ a < r.base + r.size := by
  simp [Region.contains]

theorem covers_iff (l : Latch) (a : Nat) :
    l.covers a = true ↔ l.addr.toNat ≤ a ∧ a < l.addr.toNat + l.len.toNat := by
  simp [Latch.covers]

theorem readableRange_iff (d : DataSpace) (a k : Nat) :
    d.readableRange a k = true ↔ ∀ x, a ≤ x → x < a + k → d.readable x = true := by
  simp only [DataSpace.readableRange, List.all_eq_true, List.mem_range'_1]
  exact ⟨fun h x h1 h2 => h x ⟨h1, h2⟩, fun h x hx => h x hx.1 hx.2⟩

/-- The overlap test says exactly that some address of the range meets a device region. -/
theorem deviceIn_iff (d : DataSpace) (a m : Nat) :
    d.deviceIn a m = true ↔ ∃ x, a ≤ x ∧ x < a + m ∧ d.device x = true := by
  simp only [DataSpace.deviceIn, DataSpace.device, List.any_eq_true, Bool.and_eq_true, decide_eq_true_eq,
    region_contains_iff]
  constructor
  · rintro ⟨r, hr, hk, h⟩
    exact ⟨max a r.base, by omega, by omega, r, hr, hk, by omega, by omega⟩
  · rintro ⟨x, h1, h2, r, hr, hk, h3, h4⟩
    exact ⟨r, hr, hk, by omega⟩

/-! ### The memory port -/

/-- What a read of the memory port can do (00_scope.md R12, 20_memory.md R64). -/
theorem memRead_cases (d : DataSpace) (a k : Nat) :
    (d.readableRange a k = true ∧ d.memRead a k = .ok (BitVec.ofNat (8 * k) (leValue (d.bytesAt a k)))) ∨
      (d.readableRange a k = false ∧ d.memRead a k = .error a) := by
  cases h : d.readableRange a k <;> simp [DataSpace.memRead, h]

theorem memRead_ok {d : DataSpace} {a k : Nat} (h : d.readableRange a k = true) :
    d.memRead a k = .ok (BitVec.ofNat (8 * k) (leValue (d.bytesAt a k))) := by simp [DataSpace.memRead, h]

theorem memRead_error {d : DataSpace} {a k : Nat} (h : d.readableRange a k = false) : d.memRead a k = .error a := by
  simp [DataSpace.memRead, h]

/-! ### Host accesses -/

/-- What a host store can do: the byte lands and the break of R72 is noted, or the address does not exist. -/
theorem hostStore_cases (a : Nat) (b : Byte) (s : State) :
    (a < dataSpaceSize ∧ hostStore a b s = .next { s with
      space := s.space.writeByte a b, disturbed := s.disturbed || (s.isBusy && s.latch.covers a) }) ∨
      (dataSpaceSize ≤ a ∧ hostStore a b s = .fault .outsideDataSpace) := by
  by_cases h : a < dataSpaceSize
  · exact .inl ⟨h, by rw [hostStore, if_pos h]⟩
  · exact .inr ⟨by omega, by rw [hostStore, if_neg h]⟩

/-- A CMD write (10_state.md R25): dropped while BUSY, accepted while IDLE. -/
theorem submitCmd_cases (v : Word) (s : State) :
    (s.seq = .busy ∧ submitCmd v s = dropCmd s) ∨ (s.seq = .idle ∧ submitCmd v s = acceptCmd v s) := by
  cases h : s.seq <;> simp [submitCmd, State.isBusy, h]

/-- The accesses that R22 admits. -/
theorem admitAccess_ok_iff (base addr width off : Nat) :
    admitAccess base addr width = .ok off ↔ width = 32 ∧ addr = base + off ∧ off < 0x100 ∧ off % 4 = 0 := by
  unfold admitAccess
  split
  · simp_all
  · split
    · simp; omega
    · split
      · simp; omega
      · simp; omega

end Sys2Proof.Machine
end

