-- ==== Sys2Proof/Laws/Claims.lean ====
section
/-! SUPPORT. The words of the statements, in the terms of the machine's own tests. -/

namespace Sys2Proof.Claims
open Sys2Proof Sys2Proof.Machine

/-- The test that `hostStore` makes says exactly that the running command's buffer holds the address. -/
theorem inRunningBuffer_iff (s : State) (a : Nat) :
    inRunningBuffer s a ↔ (s.isBusy && s.latch.covers a) = true := by
  simp [inRunningBuffer, State.isBusy, Latch.covers]

theorem not_inRunningBuffer_of_idle {s : State} (h : s.seq = .idle) (a : Nat) : ¬inRunningBuffer s a := by
  simp [inRunningBuffer, h]

theorem not_remapBreaksBuffer_of_idle {s : State} (h : s.seq = .idle) (rs : List Region) : ¬remapBreaksBuffer s rs :=
  fun ⟨a, ha, _⟩ => not_inRunningBuffer_of_idle h a ha

/-- The taking of a turn changes neither the running buffer nor what breaks it. -/
@[simp] theorem inRunningBuffer_popTurn (s : State) (a : Nat) : inRunningBuffer (popTurn s) a ↔ inRunningBuffer s a :=
  Iff.rfl

@[simp] theorem remapBreaksBuffer_popTurn (s : State) (rs : List Region) :
    remapBreaksBuffer (popTurn s) rs ↔ remapBreaksBuffer s rs := Iff.rfl

@[simp] theorem inRunningBuffer_popStmt (s : State) (a : Nat) : inRunningBuffer (popStmt s) a ↔ inRunningBuffer s a :=
  Iff.rfl

@[simp] theorem remapBreaksBuffer_popStmt (s : State) (rs : List Region) :
    remapBreaksBuffer (popStmt s) rs ↔ remapBreaksBuffer s rs := Iff.rfl

/-- Putting a value in a host variable does that and no more. -/
theorem assignedAlone_setVar {h : HostAgent} (hw : Cells.wf unsetVar h.vars) (x : Var) (v : Word) :
    assignedAlone x v h (h.setVar x v) :=
  ⟨Cells.get_put_self _ _ _ hw, fun y hy => Cells.get_put_ne _ _ y _ hy⟩

@[simp] theorem withProgram_program (rest : List HostStmt) (s : State) : (withProgram rest s).host.program = rest := rfl
@[simp] theorem withProgram_vars (rest : List HostStmt) (s : State) : (withProgram rest s).host.vars = s.host.vars := rfl
@[simp] theorem withProgram_irq (rest : List HostStmt) (s : State) : (withProgram rest s).irq = s.irq := rfl

/-- The state with its first statement taken off. -/
theorem popStmt_eq_withProgram {s : State} {st : HostStmt} {rest : List HostStmt} (h : s.host.program = st :: rest) :
    popStmt s = withProgram rest s := by simp [popStmt, withProgram, h]

/-- The register map and the model's own offsets are one table. -/
theorem mem_registerMap_iff (off : Nat) (r : Reg) : (off, r) ∈ registerMap ↔ off = r.offset := by
  cases r <;> simp [registerMap, Reg.offset]

end Sys2Proof.Claims
end

