-- ==== Sys2Proof/Laws/Datapath.lean ====
section
/-! SUPPORT. The datapath's small lemmas: the step functions are linear over GF(2), and a multi-byte step is a run of
one-byte steps. -/

namespace Sys2Proof.Machine

@[simp] theorem bitStep_zero : bitStep 0 = 0 := by decide

/-- One turn of the loop of 40_step_adapter.md R100 is linear. -/
theorem bitStep_xor (s t : Word) : bitStep (s ^^^ t) = bitStep s ^^^ bitStep t := by
  have h : (s ^^^ t) >>> 1 = (s >>> 1) ^^^ (t >>> 1) := by
    ext i hi
    simp [BitVec.getElem_xor]
  simp only [bitStep, BitVec.getLsbD_xor, h]
  cases s.getLsbD 0 <;> cases t.getLsbD 0 <;>
    simp only [Bool.xor_self, Bool.xor_false, Bool.false_xor, Bool.false_eq_true, if_true, if_false]
  · ac_rfl
  · ac_rfl
  · rw [show s >>> 1 ^^^ poly ^^^ (t >>> 1 ^^^ poly) = s >>> 1 ^^^ t >>> 1 ^^^ (poly ^^^ poly) by ac_rfl,
      BitVec.xor_self, BitVec.xor_zero]

theorem bitStep_iterate_xor (n : Nat) (s t : Word) :
    Nat.iterate bitStep n (s ^^^ t) = Nat.iterate bitStep n s ^^^ Nat.iterate bitStep n t := by
  induction n generalizing s t with
  | zero => rfl
  | succ n ih => simp only [Function.iterate_succ, Function.comp, bitStep_xor, ih]

/-- R100 as the eightfold turn of the accumulator with the byte added. -/
theorem step1_eq (c : Word) (b : Byte) : step1 c b = Nat.iterate bitStep 8 (c ^^^ b.setWidth 32) := rfl

@[simp] theorem stepk_zero (c : Word) (v : BitVec (8 * 0)) : stepk 0 c v = c := rfl

/-- R101, unrolled from the top byte. -/
theorem stepk_succ (k : Nat) (c : Word) (v : BitVec (8 * (k + 1))) :
    stepk (k + 1) c v = step1 (stepk k c (v.setWidth (8 * k))) (v.extractLsb' (8 * k) 8) := by
  have h : ∀ t : Word, ∀ j ∈ List.range k,
      step1 t ((v.setWidth (8 * k)).extractLsb' (8 * j) 8) = step1 t (v.extractLsb' (8 * j) 8) := by
    intro t j hj
    have hj : j < k := List.mem_range.1 hj
    congr 1
    ext i hi
    simp
    omega
  simp only [stepk, List.range_succ, List.foldl_append, List.foldl_cons, List.foldl_nil]
  congr 1
  exact (List.foldl_ext _ _ _ fun t j hj => h t j hj).symm

@[simp] theorem zeroShiftBy_zero (c : Word) : zeroShiftBy 0 c = c := rfl

theorem zeroShiftBy_succ (m : Nat) (c : Word) : zeroShiftBy (m + 1) c = zeroShiftBy m (zeroShift c) := rfl

theorem zeroShiftBy_add (m n : Nat) (c : Word) : zeroShiftBy (m + n) c = zeroShiftBy m (zeroShiftBy n c) := by
  simp [zeroShiftBy, Function.iterate_add_apply]

/-- The lower half of a joined pair. -/
@[simp] theorem lowWord_joinWords (hi lo : Word) : lowWord (joinWords hi lo) = lo := by
  apply BitVec.eq_of_getLsbD_eq
  intro i h
  rw [lowWord, BitVec.getLsbD_extractLsb', joinWords]
  show (decide (i < 32) && (hi ++ lo : BitVec (32 + 32)).getLsbD (0 + i)) = _
  rw [BitVec.getLsbD_append]
  simp [h]

/-- The upper half of a joined pair. -/
@[simp] theorem highWord_joinWords (hi lo : Word) : highWord (joinWords hi lo) = hi := by
  apply BitVec.eq_of_getLsbD_eq
  intro i h
  rw [highWord, BitVec.getLsbD_extractLsb', joinWords]
  show (decide (i < 32) && (hi ++ lo : BitVec (32 + 32)).getLsbD (32 + i)) = _
  rw [BitVec.getLsbD_append]
  simp [h]

@[simp] theorem romLo_romEntry (n : Nat) : romLo (romEntry n) = kLo n := lowWord_joinWords ..

@[simp] theorem romHi_romEntry (n : Nat) : romHi (romEntry n) = kHi n := highWord_joinWords ..

/-- Reading the ROM: an entry exactly for `1 <= n <= MAX_BLOCK_LEN` (41_combine_rom.md R120). -/
theorem romRead_cases (p : Params) (n : Nat) :
    (1 ≤ n ∧ n ≤ p.maxBlockLen ∧ romRead p n = some (romEntry n)) ∨
      ((n < 1 ∨ p.maxBlockLen < n) ∧ romRead p n = none) := by
  by_cases h : 1 ≤ n ∧ n ≤ p.maxBlockLen
  · exact .inl ⟨h.1, h.2, by rw [romRead, if_pos h]⟩
  · exact .inr ⟨by omega, by rw [romRead, if_neg h]⟩

end Sys2Proof.Machine
end

