-- ==== Sys2Proof/Laws/Exec.lean ====
section
/-! SUPPORT. What a meaning can do: every one is a completion (10_state.md R44) of the state in which at most the working
registers and the count of free values have changed. -/

namespace Sys2Proof.Machine

/-- COMPUTE, in its five ways (42_slicing_engine.md R143, R146, R158; 20_memory.md R68, R72). -/
theorem execCompute_cases (s : State) :
    (dataSpaceSize < s.latch.addr.toNat + s.latch.len.toNat ∧
        execCompute s = .next (complete (.err .range) s)) ∨
      (s.latch.addr.toNat + s.latch.len.toNat ≤ dataSpaceSize ∧
        ((s.disturbed = true ∧
            execCompute s = .next (complete (drawOutcome s.params s.latch s.draws) (tookDraw s))) ∨
          (s.disturbed = false ∧
            ((∃ a, computeRun s.params s.space (computeStart s.latch s.work) = .error a ∧
                execCompute s = .next (complete (.err (.readFault (BitVec.ofNat 64 a))) s)) ∨
              (∃ w, computeRun s.params s.space (computeStart s.latch s.work) = .ok w ∧
                ((s.space.deviceIn s.latch.addr.toNat s.latch.len.toNat = true ∧ execCompute s =
                    .next (complete (.ok (Config.deviceResult s.draws) 0) (tookDraw { s with work := w }))) ∨
                  (s.space.deviceIn s.latch.addr.toNat s.latch.len.toNat = false ∧ execCompute s =
                    .next (complete (.ok w.c 0) { s with work := w })))))))) := by
  by_cases hr : dataSpaceSize < s.latch.addr.toNat + s.latch.len.toNat
  · exact .inl ⟨hr, by rw [execCompute, if_pos hr]⟩
  refine .inr ⟨by omega, ?_⟩
  by_cases hd : s.disturbed = true
  · exact .inl ⟨hd, by rw [execCompute, if_neg hr, if_pos hd]⟩
  refine .inr ⟨by simpa using hd, ?_⟩
  cases hc : computeRun s.params s.space (computeStart s.latch s.work) with
  | error a => exact .inl ⟨a, rfl, by rw [execCompute, if_neg hr, if_neg hd, hc]⟩
  | ok w =>
    refine .inr ⟨w, rfl, ?_⟩
    by_cases hv : s.space.deviceIn s.latch.addr.toNat s.latch.len.toNat = true
    · exact .inl ⟨hv, by rw [execCompute, if_neg hr, if_neg hd, hc]; simp [computeDone, hv]⟩
    · exact .inr ⟨by simpa using hv, by rw [execCompute, if_neg hr, if_neg hd, hc]; simp [computeDone, hv]⟩

/-- Every command completes: its meaning is the completion with some outcome, from a state that differs from `s` in the
working registers and the count of free values alone. -/
theorem exec_eq_complete (i : Instr) (s : State) :
    ∃ o w k, exec i s = .next (complete o { s with work := w, draws := k }) := by
  cases i with
  | compute =>
    show ∃ o w k, execCompute s = .next (complete o { s with work := w, draws := k })
    rcases execCompute_cases s with ⟨-, h⟩ | ⟨-, ⟨-, h⟩ | ⟨-, ⟨a, -, h⟩ | ⟨w, -, ⟨-, h⟩ | ⟨-, h⟩⟩⟩⟩
    · exact ⟨_, s.work, s.draws, h⟩
    · exact ⟨_, s.work, s.draws + 1, h⟩
    · exact ⟨_, s.work, s.draws, h⟩
    · exact ⟨_, w, s.draws + 1, h⟩
    · exact ⟨_, w, s.draws, h⟩
  | step1 => exact ⟨_, s.work, s.draws, rfl⟩
  | step2 => exact ⟨_, s.work, s.draws, rfl⟩
  | step4 => exact ⟨_, s.work, s.draws, rfl⟩
  | step8 => exact ⟨_, s.work, s.draws, rfl⟩
  | clmul => exact ⟨_, s.work, s.draws, rfl⟩
  | romrd => exact ⟨_, s.work, s.draws, rfl⟩
  | combine => exact ⟨_, s.work, s.draws, rfl⟩

end Sys2Proof.Machine
end

