-- ==== Sys2Proof/Laws/PerInstr.lean ====
section
/-! SUPPORT. The statements made for every command, one lemma per constructor. -/

namespace Sys2Proof.Laws

/-- The command is well formed, and its word decodes to it and to nothing else (30_encoding.md R82). -/
def Encoding.Statement (i : Instr) : Prop :=
  i.wellFormed = true ∧ decodeWord (encode i) = .ok i ∧ decodeTableWord 32 (encode i).toNat = some i

theorem Encoding.compute : Encoding.Statement .compute := ⟨rfl, rfl, rfl⟩
theorem Encoding.step1 : Encoding.Statement .step1 := ⟨rfl, rfl, rfl⟩
theorem Encoding.step2 : Encoding.Statement .step2 := ⟨rfl, rfl, rfl⟩
theorem Encoding.step4 : Encoding.Statement .step4 := ⟨rfl, rfl, rfl⟩
theorem Encoding.step8 : Encoding.Statement .step8 := ⟨rfl, rfl, rfl⟩
theorem Encoding.clmul : Encoding.Statement .clmul := ⟨rfl, rfl, rfl⟩
theorem Encoding.romrd : Encoding.Statement .romrd := ⟨rfl, rfl, rfl⟩
theorem Encoding.combine : Encoding.Statement .combine := ⟨rfl, rfl, rfl⟩

end Sys2Proof.Laws
end

