-- ==== Sys2Proof/Laws/Slicing.lean ====
section
/-! SUPPORT. What each piece of the COMPUTE sequence can do, said once: it goes on with the working registers the rule gives,
or stops at the address of the read that faulted. -/

namespace Sys2Proof.Machine

/-- One fold of `k` bytes (42_slicing_engine.md R143, R158). -/
theorem foldAt_cases (d : DataSpace) (k : Nat) (w : Working) :
    (d.readableRange w.p k = true ∧ foldAt d k w = .ok { w with
        c := stepk k w.c (BitVec.ofNat (8 * k) (leValue (d.bytesAt w.p k))), p := w.p + k, r := w.r - k }) ∨
      (d.readableRange w.p k = false ∧ foldAt d k w = .error w.p) := by
  rcases memRead_cases d w.p k with ⟨h, hm⟩ | ⟨h, hm⟩
  · exact .inl ⟨h, by rw [foldAt, hm]; rfl⟩
  · exact .inr ⟨h, by rw [foldAt, hm]; rfl⟩

/-- One line of leading alignment (R148): a fold when the bit of `p` asks for it, else nothing. -/
theorem alignBit_cases (d : DataSpace) (b : Nat) (w : Working) :
    (w.p.testBit b = true ∧ 2 ^ b ≤ w.r ∧ alignBit d b w = foldAt d (2 ^ b) w) ∨
      (¬(w.p.testBit b = true ∧ 2 ^ b ≤ w.r) ∧ alignBit d b w = .ok w) := by
  by_cases h : w.p.testBit b = true ∧ 2 ^ b ≤ w.r
  · exact .inl ⟨h.1, h.2, by rw [alignBit, if_pos h]⟩
  · exact .inr ⟨h, by rw [alignBit, if_neg h]; rfl⟩

/-- One line of the small part of the tail (R156). -/
theorem tailOne_cases (d : DataSpace) (k : Nat) (w : Working) :
    (k ≤ w.r ∧ tailOne d k w = foldAt d k w) ∨ (w.r < k ∧ tailOne d k w = .ok w) := by
  by_cases h : k ≤ w.r
  · exact .inl ⟨h, by rw [tailOne, if_pos h]⟩
  · exact .inr ⟨by omega, by rw [tailOne, if_neg h]; rfl⟩

/-- One step of the three-stream fold (R149, R151): three reads in order, or the first of them that faults. -/
theorem streamStep_cases (d : DataSpace) (w : Working) (i : Nat) :
    (∃ v0 v1 v2, d.memRead (w.p + 8 * i) 8 = .ok v0 ∧ d.memRead (w.p + 8 * (w.n + i)) 8 = .ok v1 ∧
        d.memRead (w.p + 8 * (2 * w.n + i)) 8 = .ok v2 ∧
        streamStep d w i = .ok { w with i := i, a0 := step8 w.a0 v0, a1 := step8 w.a1 v1, a2 := step8 w.a2 v2 }) ∨
      (d.readableRange (w.p + 8 * i) 8 = false ∧ streamStep d w i = .error (w.p + 8 * i)) ∨
      (d.readableRange (w.p + 8 * i) 8 = true ∧ d.readableRange (w.p + 8 * (w.n + i)) 8 = false ∧
        streamStep d w i = .error (w.p + 8 * (w.n + i))) ∨
      (d.readableRange (w.p + 8 * i) 8 = true ∧ d.readableRange (w.p + 8 * (w.n + i)) 8 = true ∧
        d.readableRange (w.p + 8 * (2 * w.n + i)) 8 = false ∧
        streamStep d w i = .error (w.p + 8 * (2 * w.n + i))) := by
  rcases memRead_cases d (w.p + 8 * i) 8 with ⟨h0, m0⟩ | ⟨h0, m0⟩
  · rcases memRead_cases d (w.p + 8 * (w.n + i)) 8 with ⟨h1, m1⟩ | ⟨h1, m1⟩
    · rcases memRead_cases d (w.p + 8 * (2 * w.n + i)) 8 with ⟨h2, m2⟩ | ⟨h2, m2⟩
      · exact .inl ⟨_, _, _, m0, m1, m2, by rw [streamStep, m0, m1, m2]; rfl⟩
      · exact .inr (.inr (.inr ⟨h0, h1, h2, by rw [streamStep, m0, m1, m2]; rfl⟩))
    · exact .inr (.inr (.inl ⟨h0, h1, by rw [streamStep, m0, m1]; rfl⟩))
  · exact .inr (.inl ⟨h0, by rw [streamStep, m0]; rfl⟩)

/-- The block length of an iteration of a legal instance (R150). -/
theorem blockLenFor_bounds {p : Params} (hp : p.legal = true) {r : Nat} (h : p.threshold ≤ r) :
    1 ≤ blockLenFor p r ∧ blockLenFor p r ≤ p.maxBlockLen ∧ bytesPerIter * blockLenFor p r ≤ r := by
  simp only [Params.legal, Bool.and_eq_true, decide_eq_true_eq] at hp
  simp only [blockLenFor, bytesPerIter]
  omega

end Sys2Proof.Machine
end

