-- ==== Sys2Proof/Laws/Step.lean ====
section
/-! SUPPORT. What each agent's move and one step can do, said once. -/

namespace Sys2Proof.Machine

/-- The engine's move (10_state.md R44): nothing while IDLE, a completion while BUSY. -/
theorem engineMove_cases (s : State) :
    (s.seq = .idle ∧ engineMove s = .next s) ∨
      (s.seq = .busy ∧ ∃ o w k, engineMove s = .next (complete o { s with work := w, draws := k })) := by
  by_cases hb : s.isBusy = true
  · refine .inr ⟨(isBusy_iff s).1 hb, ?_⟩
    cases hd : decodeWord s.latch.cmd with
    | error e => exact ⟨.err .illegalCmd, s.work, s.draws, by simp [engineMove, hb, hd]⟩
    | ok i =>
      obtain ⟨o, w, k, h⟩ := exec_eq_complete i s
      exact ⟨o, w, k, by simp [engineMove, hb, hd, h]⟩
  · have hb : s.isBusy = false := Bool.eq_false_iff.2 hb
    exact .inl ⟨(isBusy_eq_false_iff s).1 hb, by simp [engineMove, hb]⟩

/-- A bus read that goes through: the access was admitted, and the value read is the window's. -/
theorem busRead_next {addr width : Nat} {f : Word → State → State} {s t : State}
    (h : busRead addr width f s = .next t) :
    ∃ off, admitAccess s.regBase addr width = .ok off ∧ t = f (windowRead off s) s := by
  unfold busRead at h
  split at h
  · next off ho => exact ⟨off, ho, by simpa using h.symm⟩
  · simp at h

/-- A bus write that goes through. -/
theorem busWrite_next {addr width : Nat} {v : Word} {s t : State} (h : busWrite addr width v s = .next t) :
    ∃ off, admitAccess s.regBase addr width = .ok off ∧ t = windowWrite off v s := by
  unfold busWrite at h
  split at h
  · next off ho => exact ⟨off, ho, by simpa using h.symm⟩
  · simp at h

/-- What a window write can do: nothing, a submission, an acknowledgement, the enable bit, or operand registers alone. -/
theorem windowWrite_cases (off : Nat) (v : Word) (s : State) :
    windowWrite off v s = s ∨
      (off = Reg.offset .cmd ∧ windowWrite off v s = submitCmd v s) ∨
      (off = Reg.offset .status ∧ windowWrite off v s = acknowledge v s) ∨
      (off = Reg.offset .irqEn ∧ windowWrite off v s = { s with irqEn := v.getLsbD 0 }) ∨
      (∃ r : Regs, windowWrite off v s = { s with regs := r } ∧ r.resultLo = s.regs.resultLo ∧
        r.resultHi = s.regs.resultHi ∧ r.faultAddrLo = s.regs.faultAddrLo ∧ r.faultAddrHi = s.regs.faultAddrHi) := by
  unfold windowWrite
  cases h : Reg.atOffset off with
  | none => exact .inl rfl
  | some r =>
    have ho : off = r.offset :=
      (beq_iff_eq.1 (List.find?_some (p := fun r : Reg => r.offset == off) h)).symm
    cases r with
    | id => exact .inl rfl
    | param => exact .inl rfl
    | resultLo => exact .inl rfl
    | resultHi => exact .inl rfl
    | faultAddrLo => exact .inl rfl
    | faultAddrHi => exact .inl rfl
    | cmd => exact .inr (.inl ⟨ho, rfl⟩)
    | status => exact .inr (.inr (.inl ⟨ho, rfl⟩))
    | irqEn => exact .inr (.inr (.inr (.inl ⟨ho, rfl⟩)))
    | crcIn => exact .inr (.inr (.inr (.inr ⟨_, rfl, rfl, rfl, rfl, rfl⟩)))
    | addrLo => exact .inr (.inr (.inr (.inr ⟨_, rfl, rfl, rfl, rfl, rfl⟩)))
    | addrHi => exact .inr (.inr (.inr (.inr ⟨_, rfl, rfl, rfl, rfl, rfl⟩)))
    | lenLo => exact .inr (.inr (.inr (.inr ⟨_, rfl, rfl, rfl, rfl, rfl⟩)))
    | lenHi => exact .inr (.inr (.inr (.inr ⟨_, rfl, rfl, rfl, rfl, rfl⟩)))
    | opaLo => exact .inr (.inr (.inr (.inr ⟨_, rfl, rfl, rfl, rfl, rfl⟩)))
    | opaHi => exact .inr (.inr (.inr (.inr ⟨_, rfl, rfl, rfl, rfl, rfl⟩)))
    | opb => exact .inr (.inr (.inr (.inr ⟨_, rfl, rfl, rfl, rfl, rfl⟩)))

/-- What a host statement that goes through can do, the statement already off the program: change the host alone, write
the window, store a byte, or change the map. -/
theorem runStmt_cases {st : HostStmt} {s t : State} (h : runStmt st s = .next t) :
    (∃ hh, t = { s with host := hh } ∧ (Cells.wf unsetVar s.host.vars → Cells.wf unsetVar hh.vars) ∧
        (∀ a b, st ≠ .store a b) ∧ ∀ rs, st ≠ .remap rs) ∨
      (∃ addr width e off, st = .write addr width e ∧ admitAccess s.regBase addr width = .ok off ∧
        t = windowWrite off (e.eval s.host) s) ∨
      (∃ a b, st = .store a b ∧ a < dataSpaceSize ∧ t = { s with
        space := s.space.writeByte a b, disturbed := s.disturbed || (s.isBusy && s.latch.covers a) }) ∨
      (∃ rs, st = .remap rs ∧ t = hostRemap rs s) := by
  cases st with
  | write addr width e =>
    obtain ⟨off, ho, rfl⟩ := busWrite_next h
    exact .inr (.inl ⟨addr, width, e, off, rfl, ho, rfl⟩)
  | read addr width x =>
    obtain ⟨off, -, rfl⟩ := busRead_next h
    exact .inl ⟨_, rfl, fun hw => Cells.wf_put hw _ _, nofun, nofun⟩
  | assign x e =>
    simp only [runStmt, Host.Outcome.next.injEq] at h
    exact .inl ⟨_, h.symm, fun hw => Cells.wf_put hw _ _, nofun, nofun⟩
  | pollWhileSet addr x bit =>
    obtain ⟨off, -, rfl⟩ := busRead_next h
    unfold pollAgain
    split
    · exact .inl ⟨_, rfl, fun hw => Cells.wf_put hw _ _, nofun, nofun⟩
    · exact .inl ⟨_, rfl, fun hw => Cells.wf_put hw _ _, nofun, nofun⟩
  | waitIrq =>
    simp only [runStmt, Host.Outcome.next.injEq] at h
    split at h
    · exact .inl ⟨s.host, h.symm, id, nofun, nofun⟩
    · exact .inl ⟨_, h.symm, id, nofun, nofun⟩
  | store a b =>
    rcases hostStore_cases a b s with ⟨ha, hs⟩ | ⟨-, hs⟩
    · exact .inr (.inr (.inl ⟨a, b, rfl, ha, by simpa [runStmt, hs] using h.symm⟩))
    · simp [runStmt, hs] at h
  | remap rs =>
    exact .inr (.inr (.inr ⟨rs, rfl, by simpa [runStmt] using h.symm⟩))

/-- What a step that goes through is: a legal instance, and one agent's move. -/
theorem step_cases {s t : State} (h : step s = .next t) :
    s.params.legal = true ∧
      ((s.nextAgent = none ∧ t = popTurn s) ∨
        (s.nextAgent = some .reset ∧ t = blockReset (popTurn s)) ∨
        (s.nextAgent = some .engine ∧ engineMove (popTurn s) = .next t) ∨
        (s.nextAgent = some .host ∧ hostMove (popTurn s) = .next t)) := by
  unfold step at h
  split at h
  · next hl =>
    refine ⟨hl, ?_⟩
    cases hn : s.nextAgent with
    | none => exact .inl ⟨rfl, by simpa [hn, agentMove] using h.symm⟩
    | some a =>
      cases a with
      | reset => exact .inr (.inl ⟨rfl, by simpa [hn, agentMove] using h.symm⟩)
      | engine => exact .inr (.inr (.inl ⟨rfl, by simpa [hn, agentMove] using h⟩))
      | host => exact .inr (.inr (.inr ⟨rfl, by simpa [hn, agentMove] using h⟩))
  · simp at h

/-- The host's move: nothing without a statement, else the first one. -/
theorem hostMove_cases (s : State) :
    (s.host.program = [] ∧ hostMove s = .next s) ∨
      (∃ st rest, s.host.program = st :: rest ∧ hostMove s = runStmt st (popStmt s)) := by
  cases h : s.host.program with
  | nil => exact .inl ⟨rfl, by simp [hostMove, h]⟩
  | cons st rest => exact .inr ⟨st, rest, rfl, by simp [hostMove, h]⟩

end Sys2Proof.Machine
end

