-- ==== Sys2Proof/Tests/Slice0.lean ====
section
/-! SUPPORT. Tests. Expected values come from spec/: the encodings of 30_encoding.md R82, the vectors of 95_test_vectors.md,
the tables of 10_state.md. Each runs one step or one operation on a small state. -/

namespace Sys2Proof.Tests

-- One test after another: each `decide +kernel` waits for the kernel, and a thread that waits costs memory.
set_option Elab.async false

open Sys2Proof Sys2Proof.Machine Sys2Proof.Claims

/-! ### What is ill formed is refused (00_scope.md R7, 10_state.md R22) -/

theorem test_default_params_legal : Params.legal .default = true := by decide
theorem test_threshold_23_refused : Params.legal ⟨23, 128, true⟩ = false := by decide
theorem test_threshold_65536_refused : Params.legal ⟨65536, 128, true⟩ = false := by decide
theorem test_max_block_len_0_refused : Params.legal ⟨600, 0, true⟩ = false := by decide
theorem test_max_block_len_32768_refused : Params.legal ⟨600, 32768, true⟩ = false := by decide
theorem test_byte_access_refused : admitAccess 0x1000 0x100C 8 = .error .width := by decide
theorem test_misaligned_access_refused : admitAccess 0x1000 0x100E 32 = .error .misaligned := by decide
theorem test_access_past_window_refused : admitAccess 0x1000 0x1100 32 = .error .outsideWindow := by decide
theorem test_access_below_window_refused : admitAccess 0x1000 0xFFC 32 = .error .outsideWindow := by decide
theorem test_last_offset_admitted : admitAccess 0x1000 0x10FC 32 = .ok 0xFC := by decide
/-- A command has no field, so no command is ill formed: the check passes all eight. -/
theorem test_every_command_well_formed : Instr.all.all Instr.wellFormed = true := by decide

/-! ### Decoding (30_encoding.md R80 to R82, R85), words written out as RSV then OP -/

theorem test_decode_compute : decodeWord (0b0000000000000000000000000000#28 ++ 0b0001#4) = .ok .compute := by decide
theorem test_decode_step1 : decodeWord (0b0000000000000000000000000000#28 ++ 0b0010#4) = .ok .step1 := by decide
theorem test_decode_step2 : decodeWord (0b0000000000000000000000000000#28 ++ 0b0011#4) = .ok .step2 := by decide
theorem test_decode_step4 : decodeWord (0b0000000000000000000000000000#28 ++ 0b0100#4) = .ok .step4 := by decide
theorem test_decode_step8 : decodeWord (0b0000000000000000000000000000#28 ++ 0b0101#4) = .ok .step8 := by decide
theorem test_decode_clmul : decodeWord (0b0000000000000000000000000000#28 ++ 0b0110#4) = .ok .clmul := by decide
theorem test_decode_romrd : decodeWord (0b0000000000000000000000000000#28 ++ 0b0111#4) = .ok .romrd := by decide
theorem test_decode_combine : decodeWord (0b0000000000000000000000000000#28 ++ 0b1000#4) = .ok .combine := by decide
theorem test_decode_op_0 : decodeWord 0x00000000 = .error .reservedOp := by decide
theorem test_decode_op_9 : decodeWord 0x00000009 = .error .reservedOp := by decide
theorem test_decode_op_15 : decodeWord 0x0000000F = .error .reservedOp := by decide
/-- OP is a valid command but RSV is not 0 (V-L2-ERR-1). -/
theorem test_decode_reserved_bits : decodeWord 0x80000008 = .error .reservedBits := by decide
theorem test_table_word : decodeTableWord 32 7 = some .romrd := by decide
theorem test_disassemble_illegal : disassemble 0x0000001A = "CMD.ILLEGAL 0x0000001A" := by decide

/-! ### States -/

/-- A state after reset with these operand registers. -/
def withOperands (crcIn : Word) (addr len opa : DWord) (opb : Word) : State :=
  { State.reset with
    regs := { Regs.reset with
      crcIn := crcIn, addrLo := lowWord addr, addrHi := highWord addr, lenLo := lowWord len, lenHi := highWord len
      opaLo := lowWord opa, opaHi := highWord opa, opb := opb } }

/-- The same over these bytes, this map and these parameters. -/
def withBuffer (bytes : Memory) (regions : List Region) (p : Params) (s : State) : State :=
  { s with params := p, space := { bytes := bytes, regions := regions } }

/-- What `f` sees in the state after one step that runs the word `w`. -/
def after {α : Type} (s : State) (w : Nat) (f : State → α) : Option α :=
  match step (s.withFetchWord 32 w) with
  | .next t => some (f t)
  | .fault _ => none
  | .refused _ => none

/-- STATUS and RESULT as the host reads them. -/
def report (s : State) : Word × DWord := (s.statusWord, s.regs.result)

/-- `ramp(0x70003, 24)`, the bytes j at 0x70003 + j that are not 0. -/
def ramp24 : Memory := (List.range' 1 23).map fun j => (0x70003 + j, BitVec.ofNat 8 j)

/-- "123456789" at 0x10000. -/
def digits : Memory := (List.range 9).map fun j => (0x10000 + j, BitVec.ofNat 8 (0x31 + j))

/-! ### One step of each command (95_test_vectors.md, V-L2 and V-L1-3) -/

theorem test_step1 :
    after (withOperands 0xFFFFFFFF 0 0 0xFFFFFF31 0) 2 report = some (0x2, 0x6F0A661C) := by decide +kernel
theorem test_step1_equal_byte :
    after (withOperands 0xFFFFFFFF 0 0 0xFF 0) 2 report = some (0x2, 0x00FFFFFF) := by decide +kernel
theorem test_step2 :
    after (withOperands 0xFFFFFFFF 0 0 0x3231 0) 3 report = some (0x2, 0x8CAA3B9F) := by decide +kernel
theorem test_step2_low_byte_first :
    after (withOperands 0 0 0 0x0100 0) 3 report = some (0x2, 0xF26B8303) := by decide +kernel
theorem test_step4 :
    after (withOperands 0x12345678 0 0 0xDEADBEEF 0) 4 report = some (0x2, 0xF3ED4B20) := by decide +kernel
theorem test_step8 :
    after (withOperands 0x12345678 0 0 0x0123456789ABCDEF 0) 5 report = some (0x2, 0xA3D207BE) := by decide +kernel
theorem test_step8_top_bit :
    after (withOperands 0 0 0 0x8000000000000000 0) 5 report = some (0x2, 0x82F63B78) := by decide +kernel
theorem test_clmul :
    after (withOperands 0 0 0 0xFFFFFFFF12345678 0x9ABCDEF0) 6 report = some (0x2, 0x08860E945CD25A80) := by decide +kernel
theorem test_clmul_top_bit :
    after (withOperands 0 0 0 0x80000000 0x80000000) 6 report = some (0x2, 0x4000000000000000) := by decide +kernel
theorem test_romrd_3 :
    after (withOperands 0 0 0 0 3) 7 report = some (0x2, 0xF20C0DFEDDC0152B) := by decide +kernel
theorem test_romrd_129 :
    after (withOperands 0 0 0 0 129) 7 report = some (0x26, 0) := by decide +kernel
theorem test_combine :
    after (withOperands 0x75D343C4 0 0 0xE75A561776AB22E2 1) 8 report = some (0x2, 0xD643786A) := by decide +kernel
theorem test_combine_0 :
    after (withOperands 1 0 0 1 0) 8 report = some (0x26, 0) := by decide +kernel
theorem test_illegal_word :
    after (withOperands 1 0 0 1 1) 0x11 report = some (0x16, 0) := by decide +kernel
theorem test_compute_check_value :
    after (withBuffer digits [⟨0, 2 ^ 64, .plain⟩] .default (withOperands 0xFFFFFFFF 0x10000 9 0 0)) 1 report
      = some (0x2, 0x1CF96D7C) := by decide +kernel
/-- THRESHOLD 24: alignment of 1 and 4 bytes leaves 19, so no iteration (R147); V-L2-COMPUTE-1, L = 24. -/
theorem test_compute_aligned :
    after (withBuffer ramp24 [⟨0, 2 ^ 64, .plain⟩] ⟨24, 3, true⟩ (withOperands 0xFFFFFFFF 0x70003 24 0 0)) 1 report
      = some (0x2, 0xD643786A) := by decide +kernel
/-- The same bytes without alignment: one iteration of block length 1. -/
theorem test_compute_sliced :
    after (withBuffer ramp24 [⟨0, 2 ^ 64, .plain⟩] ⟨24, 3, false⟩ (withOperands 0xFFFFFFFF 0x70003 24 0 0)) 1 report
      = some (0x2, 0xD643786A) := by decide +kernel
theorem test_compute_range :
    after (withOperands 0 0xFFFFFFFFFFFFFFF0 0x11 0 0) 1 report = some (0x36, 0) := by decide +kernel
/-- V-L2-ERR-1: the read that covers 0x40100 starts at 0x400FB. -/
theorem test_compute_read_fault :
    after (withBuffer [] [⟨0x40000, 0x100, .plain⟩] .default (withOperands 0 0x400FB 9 0 0)) 1
      (fun t => (t.statusWord, t.regs.faultAddr)) = some (0x46, 0x400FB) := by decide +kernel
/-- V-L2-ERR-1, LEN = 0x400: the second access, stream 1 of an iteration with n = 42, is the first fault. -/
theorem test_compute_read_fault_stream1 :
    after (withBuffer [] [⟨0x40000, 0x100, .plain⟩] .default (withOperands 0 0x40000 0x400 0 0)) 1
      (fun t => (t.statusWord, t.regs.faultAddr)) = some (0x46, 0x40150) := by decide +kernel

/-! ### The access sequence (V-L2-COMPUTE-1) -/

theorem test_accesses_15 :
    accessSeq .default 0x10003 15 = [(0x10003, 8), (0x1000B, 4), (0x1000F, 2), (0x10011, 1)] := by decide +kernel
theorem test_accesses_sliced :
    accessSeq ⟨24, 2, true⟩ 0x10003 54 =
      [(0x10003, 1), (0x10004, 4), (0x10008, 8), (0x10018, 8), (0x10028, 8), (0x10010, 8), (0x10020, 8), (0x10030, 8),
        (0x10038, 1)] := by decide +kernel

/-! ### STATUS, the window and the interrupt (V-L2-STAT-1, V-L2-REG-1, V-L2-IRQ-1) -/

/-- STATUS = 0x0000004E. -/
def reported : State := { State.reset with status := { done := true, err := true, ovr := true, errCode := 4 } }

theorem test_status_start : reported.statusWord = 0x4E := by decide +kernel
theorem test_status_clear_done : (Reg.write .status 0x2 reported).statusWord = 0x4C := by decide +kernel
theorem test_status_clear_err : (Reg.write .status 0x4 reported).statusWord = 0x0A := by decide +kernel
theorem test_status_clear_ovr : (Reg.write .status 0x8 reported).statusWord = 0x46 := by decide +kernel
theorem test_status_ignored_bits : (Reg.write .status 0xF1 reported).statusWord = 0x4E := by decide +kernel
theorem test_accept_keeps_ovr : (Reg.write .cmd 0x1 reported).statusWord = 0x09 := by decide +kernel
theorem test_drop_sets_ovr : (Reg.write .cmd 0x2 (acceptCmd 1 State.reset)).statusWord = 0x09 := by decide +kernel
theorem test_param_default : windowRead 0x04 State.reset = 0x80800258 := by decide +kernel
theorem test_id : windowRead 0x00 State.reset = 0x43524333 := by decide +kernel
theorem test_reserved_reads_0 : windowRead 0x44 reported = 0 := by decide +kernel
theorem test_irq_en_one_bit : windowRead 0x10 (windowWrite 0x10 0xFFFFFFFF State.reset) = 1 := by decide +kernel
theorem test_irq_rises_on_enable : (windowWrite 0x10 1 reported).irq = true := by decide +kernel

/-! ### The host's pseudo-statements (R88) and the draw's flag (R72) -/

theorem test_setbuf_expansion :
    HostStmt.setBuf 0x1000 0x20003 500 =
      [.write 0x1018 32 (.lit 0x00020003), .write 0x101C 32 (.lit 0), .write 0x1020 32 (.lit 0x1F4),
        .write 0x1024 32 (.lit 0)] := by decide +kernel

/-- A COMPUTE of 9 bytes at 0x10000, just accepted. -/
def running : State := acceptCmd 1 (withOperands 0 0x10000 9 0 0)

theorem test_unmapping_the_buffer_disturbs : (hostRemap [] running).disturbed = true := by decide +kernel
theorem test_remap_elsewhere_is_stable :
    (hostRemap [⟨0x10000, 9, .plain⟩] running).disturbed = false := by decide +kernel
theorem test_remap_of_last_byte_disturbs :
    (hostRemap [⟨0x10000, 8, .plain⟩] running).disturbed = true := by decide +kernel

theorem test_reset_memory_wf : Memory.wf State.reset.space.bytes := by decide +kernel

/-! ### Witnesses: states and operands that meet the hypotheses of each statement, clause by clause -/

/-- BUSY with the word `w` latched. -/
def busyWith (w : Word) : State :=
  { State.reset with seq := .busy, latch := { Latch.reset with cmd := w } }

theorem witness_EngineRunsTheSelectedCommand :
    State.reset.seq = .idle ∧ (∀ w : Word, (busyWith w).seq = .busy) ∧ (busyWith 0x11).latch.cmd.extractLsb' 4 28 ≠ 0 ∧
      (∀ n : Fin 16, (busyWith (BitVec.ofNat 32 n.val)).latch.cmd.extractLsb' 4 28 = 0 ∧
        (busyWith (BitVec.ofNat 32 n.val)).latch.cmd.extractLsb' 0 4 = BitVec.ofNat 4 n.val) :=
  ⟨rfl, fun _ => rfl, by decide, by decide⟩

theorem witness_DisassemblyPrintsTheWord :
    (0#32).toNat < 1 ∧ 8 < (9#32).toNat ∧ 8 < (0xFFFFFFFF#32).toNat := by decide

theorem witness_StepRunsTheDecodedCommand :
    (busyWith 8).params.legal = true ∧ (busyWith 8).seq = .busy ∧ (busyWith 8).nextAgent = some .engine ∧
      decodeWord (busyWith 8).latch.cmd = .ok .combine ∧ State.reset.params.legal = true ∧
      decodeWord 1 = .ok .compute := by decide

/-- One state for each agent's turn, by the schedule and without one. -/
theorem witness_StepRunsTheDecodedCommand_agents :
    { busyWith 8 with turns := [.host] }.nextAgent = some .host ∧ (busyWith 8).turns = [] ∧
      { State.reset with turns := [.reset] }.nextAgent = some .reset ∧ State.reset.nextAgent = none ∧
      { State.reset with host := { program := [.waitIrq], vars := [] } }.nextAgent = some .host := by decide

theorem witness_AcceptedCommandCompletes : (busyWith 5).params.legal = true ∧ (busyWith 5).seq = .busy := by decide

/-- BUSY with block length `n` latched. -/
def busyOver (n : Word) : State := { State.reset with seq := .busy, latch := { Latch.reset with cmd := 7, opb := n } }

theorem witness_RomrdReadsOneEntry_and_CombineMergesTheStreams :
    (1 ≤ (busyOver 1).latch.opb.toNat ∧ (busyOver 1).latch.opb.toNat ≤ (busyOver 1).params.maxBlockLen) ∧
      (1 ≤ (busyOver 128).latch.opb.toNat ∧ (busyOver 128).latch.opb.toNat ≤ (busyOver 128).params.maxBlockLen) ∧
      (busyOver 0).latch.opb.toNat < 1 ∧ (busyOver 129).params.maxBlockLen < (busyOver 129).latch.opb.toNat := by decide

theorem witness_Step1FoldsOneByte : (0x12345678#32).extractLsb' 0 8 = (0x78#8) := by decide

/-- One region of 16 readable bytes at 0x100. -/
def small : DataSpace := { bytes := [(0x100, 1), (0x10F, 2)], regions := [⟨0x100, 16, .plain⟩] }

theorem witness_MemReadSumsItsBytes :
    (∀ j < 8, small.readable (0x108 + j) = true) ∧ (∃ j < 8, small.readable (0x109 + j) = false) := by decide

theorem witness_FoldingAReadFoldsItsBytes : ∃ v, small.memRead 0x108 8 = .ok v :=
  ⟨0x0200000000000000, by decide +kernel⟩

/-- A COMPUTE of 24 bytes at 0x70003 with THRESHOLD 24, just accepted. -/
def computing (al : Bool) : State :=
  acceptCmd 1 (withBuffer ramp24 [⟨0x70003, 24, .plain⟩] ⟨24, 3, al⟩ (withOperands 0xFFFFFFFF 0x70003 24 0 0))

theorem computing_bufferReadable (al : Bool) : (computing al).bufferReadable := by
  intro a h
  have h := (covers_iff _ _).1 h
  have e1 : ∀ al, (computing al).latch.addr.toNat = 0x70003 := by decide +kernel
  have e2 : ∀ al, (computing al).latch.len.toNat = 24 := by decide +kernel
  rw [e1, e2] at h
  have hs : (computing al).space = { bytes := ramp24, regions := [⟨0x70003, 24, .plain⟩] } := rfl
  simp [hs, DataSpace.readable, DataSpace.device, region_contains_iff]
  omega

theorem witness_ComputeReturnsTheReferenceCrc :
    (computing true).params.legal = true ∧ (computing true).disturbed = false ∧ (computing true).bufferInRange ∧
      (computing true).bufferReadable := by
  refine ⟨by decide, by decide, ?_, computing_bufferReadable true⟩
  show (computing true).latch.addr.toNat + (computing true).latch.len.toNat ≤ dataSpaceSize
  decide +kernel

/-- A COMPUTE with this address, length and map, just accepted. -/
def accepted (addr len : DWord) (rs : List Region) : State :=
  acceptCmd 1 (withBuffer [] rs .default (withOperands 0 addr len 0 0))

theorem witness_ComputeFollowsItsAccessSequence :
    (∀ s ∈ [accepted 0xFFFFFFFFFFFFFFF0 0x11 [], accepted 0xFFFFFFFFFFFFFFF0 0x10 [⟨0, 2 ^ 64, .plain⟩],
        accepted 0x400FB 9 [⟨0x40000, 0x100, .plain⟩], accepted 0x400FB 9 [⟨0x40000, 0x100, .sideEffects⟩]],
        s.params.legal = true ∧ s.disturbed = false) ∧
      (accepted 0xFFFFFFFFFFFFFFF0 0x10 [⟨0, 2 ^ 64, .plain⟩]).space.deviceIn 0xFFFFFFFFFFFFFFF0 0x10 = false ∧
      (accepted 0x400FB 9 [⟨0x40000, 0x100, .sideEffects⟩]).space.deviceIn 0x400FB 9 = true ∧
      2 ^ 64 < (accepted 0xFFFFFFFFFFFFFFF0 0x11 []).latch.addr.toNat +
        (accepted 0xFFFFFFFFFFFFFFF0 0x11 []).latch.len.toNat ∧
      (accepted 0xFFFFFFFFFFFFFFF0 0x10 [⟨0, 2 ^ 64, .plain⟩]).latch.addr.toNat +
        (accepted 0xFFFFFFFFFFFFFFF0 0x10 [⟨0, 2 ^ 64, .plain⟩]).latch.len.toNat = 2 ^ 64 ∧
      (accessSeq .default 0xFFFFFFFFFFFFFFF0 0x10).find? (fun x =>
        !(accepted 0xFFFFFFFFFFFFFFF0 0x10 [⟨0, 2 ^ 64, .plain⟩]).space.readableRange x.1 x.2) = none ∧
      ∀ k ∈ [RegionKind.plain, .sideEffects], (accessSeq .default 0x400FB 9).find? (fun x =>
        !(accepted 0x400FB 9 [⟨0x40000, 0x100, k⟩]).space.readableRange x.1 x.2) = some (0x400FB, 8) := by
  decide +kernel

theorem witness_ComputeOfNothingReturnsTheSeed :
    (accepted 0xFFFFFFFFFFFFFFFF 0 []).params.legal = true ∧ (accepted 0xFFFFFFFFFFFFFFFF 0 []).disturbed = false ∧
      (accepted 0xFFFFFFFFFFFFFFFF 0 []).latch.len = 0 := by decide +kernel

theorem witness_ComputePastTheTopIsRange :
    2 ^ 64 < (accepted 0xFFFFFFFFFFFFFFFF 2 []).latch.addr.toNat + (accepted 0xFFFFFFFFFFFFFFFF 2 []).latch.len.toNat ∧
      (accepted 0xFFFFFFFFFFFFFFFF 1 []).latch.addr.toNat + (accepted 0xFFFFFFFFFFFFFFFF 1 []).latch.len.toNat
        ≤ 2 ^ 64 ∧ (accepted 0xFFFFFFFFFFFFFFFF 1 []).status.errCode ≠ 3 := by decide +kernel

/-- For AccessesTileTheBuffer, AccessWidthsComeInOrder (both ways to have no leading access) and
SlicedPathReadsAreAligned. -/
theorem witness_access_statements :
    Params.legal .default = true ∧ 599 < Params.threshold .default ∧ Params.alignLeading .default = true ∧
      Params.threshold .default ≤ 600 ∧ Params.legal ⟨24, 1, false⟩ = true ∧
      (0x70008, 8) ∈ accessSeq ⟨24, 1, true⟩ 0x70003 29 := by decide +kernel

theorem witness_SliceIterationFoldsItsBytes :
    Params.legal ⟨24, 3, false⟩ = true ∧ ∃ w', sliceIter ⟨24, 3, false⟩ (computing false).space
      (computeStart (computing false).latch Working.reset) = .ok w' ∧
        24 ≤ (computeStart (computing false).latch Working.reset).r :=
  ⟨by decide, _, rfl, by decide +kernel⟩

theorem witness_ParametersDoNotChangeTheResult :
    (computing true).params.legal = true ∧ Params.legal .default = true ∧ (∃ t, exec .compute (computing true) = .next t) ∧
      ∃ t, exec .compute { computing true with params := .default } = .next t :=
  ⟨by decide, by decide, ⟨_, rfl⟩, ⟨_, rfl⟩⟩

theorem witness_ComputeIsIncremental :
    (computing true).params.legal = true ∧ (computing true).disturbed = false ∧ (computing true).status.err = false ∧
      (computing true).space.deviceIn 0x70003 (10 + 14) = false ∧
      ∃ t1 t2, exec .compute (withLatchedBuffer 5 0x70003 10 (computing true)) = .next t1 ∧ t1.status.err = false ∧
        exec .compute (withLatchedBuffer t1.regs.resultLo (0x70003 + 10) 14 (computing true)) = .next t2 ∧
        t2.status.err = false :=
  ⟨by decide, by decide, by decide, by decide +kernel, _, _, rfl, by decide +kernel, rfl, by decide +kernel⟩

theorem witness_UnstableBufferIsADraw :
    { computing true with disturbed := true }.disturbed = true ∧ { computing true with disturbed := true }.bufferInRange :=
  ⟨rfl, witness_ComputeReturnsTheReferenceCrc.2.2.1⟩

/-- The same buffer, its last byte in a region with read side effects. -/
def overDevice : State := { computing true with
  space := { bytes := ramp24, regions := [⟨0x70003, 24, .plain⟩, ⟨0x7001A, 1, .sideEffects⟩] } }

theorem witness_DeviceBufferCompletes :
    overDevice.params.legal = true ∧ overDevice.disturbed = false ∧ overDevice.bufferInRange ∧
      (∀ a, overDevice.latch.covers a = true → overDevice.space.readable a = true) ∧
      ∃ a, overDevice.latch.covers a = true ∧ overDevice.space.device a = true := by
  refine ⟨by decide, by decide, witness_ComputeReturnsTheReferenceCrc.2.2.1, fun a h => ?_, 0x7001A, by decide +kernel⟩
  have := (computing_bufferReadable true a h).1
  have hs : (computing true).space = { bytes := ramp24, regions := [⟨0x70003, 24, .plain⟩] } := rfl
  simp only [hs, DataSpace.readable, List.any_cons, List.any_nil, Bool.or_false] at this
  simp [overDevice, DataSpace.readable, this]

theorem witness_ErrorsArePrecise : (busyWith 7).status.err = false := by decide

theorem witness_OperandWritesDoNotTouchTheCommand :
    Reg.addrHi ∈ operandRegs ∧ (∃ t, exec .compute (computing true) = .next t) ∧
      ∃ t, engineMove (computing true) = .next t := ⟨by decide, ⟨_, rfl⟩, ⟨_, rfl⟩⟩

theorem witness_AcceptanceLatchesTheOperands_and_BusyCmdWriteIsDropped :
    State.reset.seq = .idle ∧ (busyWith 1).seq = .busy := by decide

/-- Both ends of the admitted offsets, each reason for refusing, both ends of the reserved offsets. -/
theorem witness_WindowAccessRules :
    (32 = 32 ∧ 0x1000 = 0x1000 + 0 ∧ 0 < 0x100 ∧ 0 % 4 = 0) ∧
      (32 = 32 ∧ 0x10FC = 0x1000 + 0xFC ∧ 0xFC < 0x100 ∧ 0xFC % 4 = 0) ∧
      (¬∃ off, 16 = 32 ∧ 0x1000 = 0x1000 + off ∧ off < 0x100 ∧ off % 4 = 0) ∧
      (¬∃ off, 32 = 32 ∧ 0x100E = 0x1000 + off ∧ off < 0x100 ∧ off % 4 = 0) ∧
      (¬∃ off, 32 = 32 ∧ 0x1100 = 0x1000 + off ∧ off < 0x100 ∧ off % 4 = 0) ∧
      (¬∃ off, 32 = 32 ∧ 0xFFC = 0x1000 + off ∧ off < 0x100 ∧ off % 4 = 0) ∧
      0x44 ≤ 0x44 ∧ 0x44 ≤ 0xFC ∧ Reg.param ∈ readOnlyRegs ∧ (0x40, Reg.faultAddrHi) ∈ registerMap :=
  ⟨by decide, by decide, by omega, by omega, by omega, by omega, by decide, by decide, by decide, by decide⟩

theorem witness_OperandRegistersReadBack : Reg.opb ∈ operandRegs ∧ Reg.id ≠ Reg.opb := by decide

theorem witness_IdentityAndParameters :
    { State.reset with params := ⟨65535, 32767, false⟩ }.params.legal = true ∧ ∃ t, step State.reset = .next t :=
  ⟨by decide, _, rfl⟩

theorem witness_InterruptFollowsDoneAndEnable :
    (0xFFFFFFFE#32).getLsbD 0 = false ∧ (1#32).getLsbD 0 = true ∧ (2#32).getLsbD 1 = true ∧
      State.reset.seq = .idle := by decide

theorem witness_ResetClearsTheBlock :
    { computing true with turns := [.reset] }.params.legal = true ∧
      { computing true with turns := [.reset] }.nextAgent = some .reset ∧ Reg.status ≠ .id ∧ Reg.status ≠ .param := by
  decide

theorem computing_inv : (computing true).Inv where
  errCode_iff := by decide
  errCode_le := by decide
  busy_done := by decide
  busy_err := by decide
  disturbed_busy := by decide
  work_fits := ⟨by decide, by decide, by decide, by decide⟩
  memory_wf := by decide +kernel
  vars_wf := by decide

theorem witness_EveryStepKeepsTheInvariant : (computing true).Inv ∧ ∃ t, step (computing true) = .next t :=
  ⟨computing_inv, _, rfl⟩

theorem witness_ResultChangesOnlyAtSuccess :
    (computing true).Inv ∧ ∃ t, step (computing true) = .next t ∧ t.regs.resultLo ≠ (computing true).regs.resultLo :=
  ⟨computing_inv, _, rfl, by decide +kernel⟩

theorem witness_FaultAddrChangesOnlyAtReadFault :
    ∃ t, step (accepted 0x400FB 9 [⟨0x40000, 0x100, .plain⟩]) = .next t ∧
      t.regs.faultAddr ≠ (accepted 0x400FB 9 [⟨0x40000, 0x100, .plain⟩]).regs.faultAddr :=
  ⟨_, rfl, by decide +kernel⟩

/-- OVR = 1 and a host about to write 8 to STATUS. -/
def clearing : State := { reported with host := { program := [HostStmt.wr 0 .status (.lit 8)], vars := [] } }

/-- BUSY, the host's turn, and a host about to write CMD. -/
def racing : State :=
  { busyWith 1 with host := { program := [HostStmt.wr 0 .cmd (.lit 2)], vars := [] }, turns := [.host] }

theorem witness_OverrunIsSticky :
    (∃ t, step clearing = .next t ∧ clearing.status.ovr = true ∧ t.status.ovr = false) ∧
      ∃ t, step racing = .next t ∧ racing.status.ovr = false ∧ t.status.ovr = true :=
  ⟨⟨_, rfl, by decide, by decide⟩, ⟨_, rfl, by decide, by decide⟩⟩

theorem witness_OnlyTheHostWritesTheDataSpace :
    ∃ t, step { State.reset with host := { program := [.store 5 7], vars := [] } } = .next t ∧
      t.space ≠ State.reset.space :=
  ⟨_, rfl, by decide⟩

/-- A store at either end of the data space and just past it; in the buffer `[0x10000, 0x10009)`, and beside it. -/
theorem witness_StoresAndRemapsTakeEffect :
    Memory.wf running.space.bytes ∧ 0 < 2 ^ 64 ∧ 2 ^ 64 - 1 < 2 ^ 64 ∧ 2 ^ 64 ≤ 2 ^ 64 ∧ inRunningBuffer running 0x10008 ∧
      ¬inRunningBuffer running 0x10009 ∧ ¬inRunningBuffer State.reset 0 ∧ remapBreaksBuffer running [] := by
  unfold remapBreaksBuffer inRunningBuffer
  exact ⟨by decide, by decide, by decide, by decide, by decide, by decide, by decide, 0x10008, by decide, .inl (by decide)⟩

/-- A COMPUTE in progress and a host about to do `st`. -/
def interrupted (st : HostStmt) : State :=
  { computing true with host := { program := [st], vars := [] }, turns := [.host] }

theorem interrupted_inv (st : HostStmt) : (interrupted st).Inv := { computing_inv with }

/-- A store into the buffer, a change of its map, and a buffer that stays marked while the host does something else. -/
theorem witness_StabilityIsTrackedExactly :
    ((interrupted (.store 0x70003 9)).Inv ∧ inRunningBuffer (interrupted (.store 0x70003 9)) 0x70003 ∧
        ∃ t, step (interrupted (.store 0x70003 9)) = .next t ∧ t.disturbed = true) ∧
      ((interrupted (.remap [])).Inv ∧ remapBreaksBuffer (interrupted (.remap [])) [] ∧
        ∃ t, step (interrupted (.remap [])) = .next t ∧ t.disturbed = true) ∧
      ({ interrupted .waitIrq with disturbed := true }.Inv ∧
        ∃ t, step { interrupted .waitIrq with disturbed := true } = .next t ∧ t.seq = .busy) := by
  unfold remapBreaksBuffer inRunningBuffer
  exact ⟨⟨interrupted_inv _, by decide +kernel, _, rfl, by decide +kernel⟩,
    ⟨interrupted_inv _, ⟨0x7001A, by decide +kernel, .inl (by decide +kernel)⟩, _, rfl, by decide +kernel⟩,
    { interrupted_inv .waitIrq with disturbed_busy := fun _ => rfl }, _, rfl, rfl⟩

theorem witness_IllegalInstanceIsRefused : { State.reset with params := ⟨23, 128, true⟩ }.params.legal = false := by decide

theorem witness_RacingCmdWriteHasBothOutcomes :
    racing.params.legal = true ∧ racing.seq = .busy ∧
      racing.host.program = HostStmt.wr racing.regBase .cmd (.lit 2) :: [] := by decide

theorem witness_IdleLatchIsUnobservable : clearing.seq = .idle ∧ ∃ t, step clearing = .next t := ⟨by decide, _, rfl⟩

theorem witness_WaitEndsWhenIdle :
    (∀ s ∈ [State.reset, busyWith 1], { s with host := { program := [HostStmt.wait s.regBase 3], vars := [] } }.host.program
      = HostStmt.wait s.regBase 3 :: []) ∧ State.reset.seq = .idle ∧ (busyWith 1).seq = .busy ∧
      Cells.wf unsetVar State.reset.host.vars ∧ State.reset.host.program = [] ∧ State.reset.host.vars = [] ∧
      { reported with irqEn := true }.irq = true ∧ reported.irq = false ∧
      (withProgram [.waitIrq] reported).host.program = .waitIrq :: [] := by decide

theorem test_shift_by_32_gives_0 :
    (Expr.shl (.lit 1) (.lit 32)).eval State.reset.host = 0 ∧ (Expr.shr (.lit 0x80000000) (.lit 31)).eval State.reset.host = 1 := by
  decide

/-- 95_test_vectors.md, `SETA 0x0706050403020100`, at REG_BASE 0x1000. -/
theorem test_seta_expansion :
    HostStmt.setA 0x1000 0x0706050403020100 =
      [.write 0x1028 32 (.lit 0x03020100), .write 0x102C 32 (.lit 0x07060504)] := by decide +kernel

theorem witness_CanonicalMemoriesAreEqual : Memory.wf small.bytes ∧ ∀ a, small.byteAt a = small.byteAt a :=
  ⟨by decide, fun _ => rfl⟩

/-- For RomHoldsTheTable, both sides of its range; ShiftIdentity and RomConstantsAreShiftedPowers ask for 1 ≤ n alone. -/
theorem witness_RomHoldsTheTable :
    romTable[127]? = some (0x170076FA, 0xA51B6135) ∧ 1 ≤ 1 ∧ 128 ≤ Params.maxBlockLen .default ∧
      Params.maxBlockLen .default < 129 := by decide

end Sys2Proof.Tests
end

section
/-! The legal parameters (00_scope.md R7). -/

namespace Sys2Proof
open Sys2Proof.Machine

/-- The ranges of R7, as a proposition. -/
theorem Params.legal_iff (p : Params) :
    p.legal = true ↔
      24 ≤ p.threshold ∧ p.threshold ≤ 65535 ∧ 1 ≤ p.maxBlockLen ∧ p.maxBlockLen ≤ 32767 := by
  simp only [Params.legal, Bool.and_eq_true, decide_eq_true_eq, and_assoc]

theorem step_of_not_legal {s : State} (h : s.params.legal = false) : step s = .refused .illegalInstance := by
  rw [step, h]
  rfl

/-- Settles O53: the ranges are the test's own, and `step` makes the test before anything else. -/
theorem illegalInstanceIsRefused : Obligations.IllegalInstanceIsRefused :=
  ⟨Params.legal_iff, fun _ => step_of_not_legal⟩

end Sys2Proof
end

section
/-! The bytes of a range and the value of a read (00_scope.md R12, 20_memory.md R64). -/

namespace Sys2Proof.Machine

/-- A range of `k + 1` bytes, unrolled from its last byte. -/
theorem bytesAt_succ_last (d : DataSpace) (a k : Nat) : d.bytesAt a (k + 1) = d.bytesAt a k ++ [d.byteAt (a + k)] :=
  bytesAt_append d a k 1

theorem leValue_append_singleton (bs : List Byte) (b : Byte) :
    leValue (bs ++ [b]) = leValue bs + 2 ^ (8 * bs.length) * b.toNat := by
  induction bs with
  | nil => simp [leValue]
  | cons x bs ih =>
    simp only [List.cons_append, leValue, ih, List.length_cons]
    ring

/-- The little-endian value, unrolled from its most significant byte. -/
theorem leValue_bytesAt_succ (d : DataSpace) (a k : Nat) :
    leValue (d.bytesAt a (k + 1)) = leValue (d.bytesAt a k) + 2 ^ (8 * k) * (d.byteAt (a + k)).toNat := by
  rw [bytesAt_succ_last, leValue_append_singleton, bytesAt_length]

theorem leValue_bytesAt_lt (d : DataSpace) (a k : Nat) : leValue (d.bytesAt a k) < 2 ^ (8 * k) := by
  induction k with
  | zero => simp [leValue]
  | succ k ih =>
    have hb := (d.byteAt (a + k)).isLt
    calc leValue (d.bytesAt a (k + 1))
        = leValue (d.bytesAt a k) + 2 ^ (8 * k) * (d.byteAt (a + k)).toNat := leValue_bytesAt_succ ..
      _ < 2 ^ (8 * k) * (1 + (d.byteAt (a + k)).toNat) := by rw [mul_add]; omega
      _ ≤ 2 ^ (8 * k) * 2 ^ 8 := Nat.mul_le_mul_left _ (by omega)
      _ = 2 ^ (8 * (k + 1)) := by rw [← pow_add]; rfl

/-- The sum of R12. -/
theorem leValue_bytesAt_eq_sum (d : DataSpace) (a k : Nat) :
    leValue (d.bytesAt a k) = ∑ j ∈ Finset.range k, (d.byteAt (a + j)).toNat <<< (8 * j) := by
  induction k with
  | zero => rfl
  | succ k ih => rw [leValue_bytesAt_succ, ih, Finset.sum_range_succ, Nat.shiftLeft_eq, Nat.mul_comm]

theorem readableRange_iff_forall_lt (d : DataSpace) (a k : Nat) :
    d.readableRange a k = true ↔ ∀ j < k, d.readable (a + j) = true := by
  rw [readableRange_iff]
  constructor
  · exact fun h j hj => h (a + j) (by omega) (by omega)
  · intro h x h1 h2
    have hx := h (x - a) (by omega)
    rwa [Nat.add_sub_cancel' h1] at hx

/-- Settles O21: the value of the read is `leValue` of its bytes, which fits the width and is the sum of R12. -/
theorem memReadSumsItsBytes : Obligations.MemReadSumsItsBytes := by
  intro d a k
  constructor
  · intro h
    refine ⟨_, memRead_ok ((readableRange_iff_forall_lt d a k).2 h), ?_⟩
    rw [BitVec.toNat_ofNat, Nat.mod_eq_of_lt (leValue_bytesAt_lt d a k), leValue_bytesAt_eq_sum]
  · rintro ⟨j, hj, hf⟩
    refine memRead_error (Bool.eq_false_iff.2 fun h => ?_)
    have ht := (readableRange_iff_forall_lt d a k).1 h j hj
    simp [hf] at ht

end Sys2Proof.Machine
end

section
/-! Functions on words that are linear over GF(2), and the datapath's own: the step functions and the carryless product
(40_step_adapter.md R106 (a), R109 (b), (c)). -/

namespace Sys2Proof.Machine

/-! ### Linearity -/

/-- Linear over GF(2). -/
def XorLinear {w m : Nat} (f : BitVec w → BitVec m) : Prop := ∀ x y, f (x ^^^ y) = f x ^^^ f y

theorem XorLinear.map_zero {w m : Nat} {f : BitVec w → BitVec m} (hf : XorLinear f) : f 0 = 0 := by
  have h := hf 0 0
  rwa [BitVec.xor_self, BitVec.xor_self] at h

theorem XorLinear.comp {w m n : Nat} {g : BitVec m → BitVec n} {f : BitVec w → BitVec m} (hg : XorLinear g)
    (hf : XorLinear f) : XorLinear fun x => g (f x) := fun x y =>
  (congrArg g (hf x y)).trans (hg ..)

/-- The low `k + 1` bits of a value are its low `k` bits and bit `k`. -/
theorem low_bits_succ {w : Nat} (v : BitVec w) (k : Nat) :
    (v.setWidth (k + 1)).setWidth w =
      (v.setWidth k).setWidth w ^^^ (if v.getLsbD k then BitVec.twoPow w k else 0) := by
  ext i hi
  rcases Nat.lt_trichotomy i k with h | rfl | h
  · cases hv : v.getLsbD k <;> simp [h, h.ne, Nat.lt_succ_of_lt h]
  · cases hv : v.getLsbD i <;> simp [hv]
  · cases hv : v.getLsbD k <;> simp [h.ne', h.not_gt, show ¬ i < k + 1 by omega]

/-- Two linear functions that agree on every single bit are equal. -/
theorem XorLinear.ext {w m : Nat} {f g : BitVec w → BitVec m} (hf : XorLinear f) (hg : XorLinear g)
    (h : ∀ i < w, f (BitVec.twoPow w i) = g (BitVec.twoPow w i)) (v : BitVec w) : f v = g v := by
  have low : ∀ k ≤ w, f ((v.setWidth k).setWidth w) = g ((v.setWidth k).setWidth w) := by
    intro k
    induction k with
    | zero =>
      intro _
      have h0 : (v.setWidth 0).setWidth w = 0 := by rw [BitVec.eq_nil (v.setWidth 0)]; simp
      rw [h0, hf.map_zero, hg.map_zero]
    | succ k ih =>
      intro hk
      rw [low_bits_succ, hf, hg, ih (by omega)]
      split
      · rw [h k (by omega)]
      · rw [hf.map_zero, hg.map_zero]
  simpa using low w le_rfl

/-! ### The step functions -/

theorem bitStep_iterate_linear (n : Nat) : XorLinear (Nat.iterate bitStep n) := bitStep_iterate_xor n

theorem bitStep_iterate_add (m n : Nat) (t : Word) :
    Nat.iterate bitStep (m + n) t = Nat.iterate bitStep m (Nat.iterate bitStep n t) :=
  Function.iterate_add_apply ..

/-- Linearity of one byte step in the accumulator and the data together. -/
theorem step1_xor (c c' : Word) (b b' : Byte) : step1 (c ^^^ c') (b ^^^ b') = step1 c b ^^^ step1 c' b' := by
  rw [step1_eq, step1_eq, step1_eq, ← bitStep_iterate_xor, BitVec.setWidth_xor]
  congr 1
  ac_rfl

/-- 40_step_adapter.md R106 (a). -/
theorem stepk_xor (k : Nat) (c c' : Word) (v v' : BitVec (8 * k)) :
    stepk k (c ^^^ c') (v ^^^ v') = stepk k c v ^^^ stepk k c' v' := by
  induction k with
  | zero => rfl
  | succ k ih => simp only [stepk_succ, BitVec.setWidth_xor, BitVec.extractLsb'_xor, ih, step1_xor]

theorem step8_zero_linear : XorLinear (step8 0) := fun v v' => stepk_xor 8 0 0 v v'

theorem step1_zero_data (c : Word) : step1 c 0 = Nat.iterate bitStep 8 c := by
  rw [step1_eq]
  simp

/-- A step over zero bytes turns the loop of R100 eight times a byte. -/
theorem stepk_zero_data (k : Nat) (c : Word) : stepk k c 0 = Nat.iterate bitStep (8 * k) c := by
  induction k with
  | zero => rfl
  | succ k ih =>
    have hlow : (0 : BitVec (8 * (k + 1))).setWidth (8 * k) = 0 := by simp
    have htop : (0 : BitVec (8 * (k + 1))).extractLsb' (8 * k) 8 = 0 := by simp
    rw [stepk_succ, hlow, htop, ih, step1_zero_data, ← bitStep_iterate_add]
    congr 1
    omega

theorem zeroShiftBy_eq_iterate (m : Nat) (c : Word) : zeroShiftBy m c = Nat.iterate bitStep (64 * m) c := by
  induction m generalizing c with
  | zero => rfl
  | succ m ih =>
    rw [zeroShiftBy_succ, ih, zeroShift, step8, stepk_zero_data, ← bitStep_iterate_add]
    rfl

theorem zeroShiftBy_linear (m : Nat) : XorLinear (zeroShiftBy m) := fun x y => by
  simp only [zeroShiftBy_eq_iterate, bitStep_iterate_xor]

theorem bitStep_twoPow_succ {i : Nat} (hi : i + 1 < 32) :
    bitStep (BitVec.twoPow 32 (i + 1)) = BitVec.twoPow 32 i := by
  have h : ∀ i : Fin 31, bitStep (BitVec.twoPow 32 (i + 1)) = BitVec.twoPow 32 i := by decide
  exact h ⟨i, by omega⟩

/-- A single bit is shifted down to bit 0 before any 1 is shifted out. -/
theorem bitStep_iterate_twoPow {i : Nat} (hi : i < 32) : Nat.iterate bitStep i (BitVec.twoPow 32 i) = 1 := by
  induction i with
  | zero => rfl
  | succ i ih => rw [Function.iterate_succ_apply, bitStep_twoPow_succ hi, ih (by omega)]

/-- A doubleword fold of a single bit: the bit enters after `i` of the 64 turns. -/
theorem step8_twoPow {i : Nat} (hi : i < 64) : step8 0 (BitVec.twoPow 64 i) = Nat.iterate bitStep (64 - i) 1 := by
  have h : ∀ i : Fin 64, step8 0 (BitVec.twoPow 64 i) = Nat.iterate bitStep (64 - i) 1 := by decide +kernel
  exact h ⟨i, hi⟩

/-! ### The carryless product -/

/-- The first `n` turns of the loop of `clmul` (R107). -/
def clmulUpTo (n : Nat) (a b : Word) : DWord :=
  (List.range n).foldl (fun r j => if b.getLsbD j then r ^^^ (a.setWidth 64 <<< j) else r) 0

theorem clmul_eq_clmulUpTo (a b : Word) : clmul a b = clmulUpTo 32 a b := rfl

theorem clmulUpTo_succ (n : Nat) (a b : Word) :
    clmulUpTo (n + 1) a b = clmulUpTo n a b ^^^ (if b.getLsbD n then a.setWidth 64 <<< n else 0) := by
  rw [clmulUpTo, List.range_succ, List.foldl_append, ← clmulUpTo]
  cases h : b.getLsbD n <;> simp [h]

theorem clmulUpTo_linear_left (n : Nat) (b : Word) : XorLinear fun a => clmulUpTo n a b := by
  intro a a'
  induction n with
  | zero => exact BitVec.xor_zero.symm
  | succ n ih =>
    simp only [clmulUpTo_succ, ih, BitVec.setWidth_xor, BitVec.shiftLeft_xor_distrib]
    cases b.getLsbD n
    · simp
    · simp only [if_true]; ac_rfl

theorem clmulUpTo_linear_right (n : Nat) (a : Word) : XorLinear fun b => clmulUpTo n a b := by
  intro b b'
  induction n with
  | zero => exact BitVec.xor_zero.symm
  | succ n ih =>
    have hbit : (if (b ^^^ b').getLsbD n then a.setWidth 64 <<< n else 0) =
        (if b.getLsbD n then a.setWidth 64 <<< n else 0) ^^^ (if b'.getLsbD n then a.setWidth 64 <<< n else 0) := by
      cases hb : b.getLsbD n <;> cases hb' : b'.getLsbD n <;> simp [hb, hb']
    simp only [clmulUpTo_succ, ih, hbit]
    ac_rfl

/-- 40_step_adapter.md R109 (b). -/
theorem clmul_linear_left (b : Word) : XorLinear fun a => clmul a b := clmulUpTo_linear_left 32 b

/-- 40_step_adapter.md R109 (c). -/
theorem clmul_linear_right (a : Word) : XorLinear (clmul a) := clmulUpTo_linear_right 32 a

theorem clmulUpTo_twoPow (n : Nat) (a : Word) {j : Nat} (hj : j < 32) :
    clmulUpTo n a (BitVec.twoPow 32 j) = if j < n then a.setWidth 64 <<< j else 0 := by
  induction n with
  | zero => rfl
  | succ n ih =>
    rw [clmulUpTo_succ, ih, BitVec.getLsbD_twoPow]
    rcases Nat.lt_trichotomy j n with h | rfl | h
    · simp [h, h.ne, Nat.lt_succ_of_lt h]
    · simp [hj]
    · simp [h.ne', h.not_gt, show ¬ j < n + 1 by omega]

/-- The product with a single bit is a shift. -/
theorem clmul_twoPow (a : Word) {j : Nat} (hj : j < 32) :
    clmul a (BitVec.twoPow 32 j) = a.setWidth 64 <<< j := by
  rw [clmul_eq_clmulUpTo, clmulUpTo_twoPow 32 a hj, if_pos hj]

end Sys2Proof.Machine
end

section
/-! The shift identity of 41_combine_rom.md R125, and what the merge of 42_slicing_engine.md R142 computes. One turn of the
loop of R100 is multiplication by `x`; so the point is that `step8 0 (clmul a b)` commutes with it in `b`. -/

namespace Sys2Proof.Machine

theorem step8_clmul_linear_left (b : Word) : XorLinear fun a => step8 0 (clmul a b) :=
  step8_zero_linear.comp (clmul_linear_left b)

theorem step8_clmul_linear_right (a : Word) : XorLinear fun b => step8 0 (clmul a b) :=
  step8_zero_linear.comp (clmul_linear_right a)

theorem twoPow_shiftLeft {i : Nat} (hi : i < 32) (j : Nat) :
    (BitVec.twoPow 32 i).setWidth 64 <<< j = BitVec.twoPow 64 (i + j) := by
  apply BitVec.eq_of_toNat_eq
  rw [BitVec.toNat_shiftLeft, BitVec.toNat_setWidth, BitVec.toNat_twoPow_of_lt hi, BitVec.toNat_twoPow,
    Nat.shiftLeft_eq, pow_add, Nat.mod_mul_mod]

/-- The fold of the product with a single bit. -/
theorem step8_clmul_twoPow (a : Word) {j : Nat} (hj : j < 32) :
    step8 0 (clmul a (BitVec.twoPow 32 j)) = Nat.iterate bitStep (64 - j) a := by
  refine XorLinear.ext (step8_clmul_linear_left _) (bitStep_iterate_linear _) (fun i hi => ?_) a
  calc step8 0 (clmul (BitVec.twoPow 32 i) (BitVec.twoPow 32 j))
      = Nat.iterate bitStep (64 - (i + j)) 1 := by rw [clmul_twoPow _ hj, twoPow_shiftLeft hi, step8_twoPow (by omega)]
    _ = Nat.iterate bitStep (64 - (i + j) + i) (BitVec.twoPow 32 i) := by
        rw [bitStep_iterate_add, bitStep_iterate_twoPow hi]
    _ = Nat.iterate bitStep (64 - j) (BitVec.twoPow 32 i) := by congr 1; omega

/-- The fold of the product with `POLY`, which stands for `x^32` modulo `P(x)`. -/
theorem step8_clmul_poly (a : Word) : step8 0 (clmul a poly) = Nat.iterate bitStep 65 a := by
  refine XorLinear.ext (step8_clmul_linear_left _) (bitStep_iterate_linear _) (fun i hi => ?_) a
  have h : ∀ i : Fin 32, step8 0 (clmul (BitVec.twoPow 32 i) poly) = Nat.iterate bitStep 65 (BitVec.twoPow 32 i) := by
    decide +kernel
  exact h ⟨i, hi⟩

theorem step8_clmul_bitStep (a b : Word) : step8 0 (clmul a (bitStep b)) = bitStep (step8 0 (clmul a b)) := by
  refine XorLinear.ext ((step8_clmul_linear_right a).comp bitStep_xor)
    (XorLinear.comp bitStep_xor (step8_clmul_linear_right a)) (fun j hj => ?_) b
  cases j with
  | zero =>
    rw [show bitStep (BitVec.twoPow 32 0) = poly from by decide, step8_clmul_poly, step8_clmul_twoPow a hj,
      ← Function.iterate_succ_apply' bitStep]
  | succ j =>
    rw [bitStep_twoPow_succ hj, step8_clmul_twoPow a (by omega), step8_clmul_twoPow a hj,
      ← Function.iterate_succ_apply' bitStep]
    congr 1
    omega

theorem step8_clmul_iterate (a : Word) (n : Nat) :
    step8 0 (clmul a (Nat.iterate bitStep n 1)) = Nat.iterate bitStep (64 + n) a := by
  induction n with
  | zero => exact step8_clmul_twoPow a (j := 0) (by omega)
  | succ n ih => rw [Function.iterate_succ_apply', step8_clmul_bitStep, ih, ← Function.iterate_succ_apply' bitStep]; rfl

/-- The shift identity (R125). -/
theorem step8_clmul_zeroShiftBy (a : Word) (j : Nat) :
    step8 0 (clmul a (zeroShiftBy j 1)) = zeroShiftBy (j + 1) a := by
  rw [zeroShiftBy_eq_iterate, step8_clmul_iterate, zeroShiftBy_eq_iterate]
  congr 1
  omega

theorem step8_clmul_kLo (a : Word) {n : Nat} (hn : 1 ≤ n) : step8 0 (clmul a (kLo n)) = zeroShiftBy (2 * n) a := by
  rw [kLo, step8_clmul_zeroShiftBy, Nat.sub_add_cancel (by omega)]

theorem step8_clmul_kHi (a : Word) {n : Nat} (hn : 1 ≤ n) : step8 0 (clmul a (kHi n)) = zeroShiftBy n a := by
  rw [kHi, step8_clmul_zeroShiftBy, Nat.sub_add_cancel hn]

/-- What the combine function is (R142): each accumulator shifted past the streams after its own. -/
theorem combine_eq_zeroShiftBy (a0 a1 a2 : Word) {n : Nat} (hn : 1 ≤ n) :
    combine a0 a1 a2 n = zeroShiftBy (2 * n) a0 ^^^ zeroShiftBy n a1 ^^^ a2 := by
  rw [combine, mergeProducts, romLo_romEntry, romHi_romEntry, step8_clmul_kLo a0 hn, step8_clmul_kHi a1 hn]

end Sys2Proof.Machine
end

section
/-! The reference CRC of a range (42_slicing_engine.md R140, R141): what a read of the memory port adds to it, and how three
streams make one. -/

namespace Sys2Proof.Machine

/-- The seed's share of a CRC does not depend on the bytes. -/
theorem crcRef_xor_seed (c e : Word) (bs : List Byte) :
    crcRef (c ^^^ e) bs = crcRef c bs ^^^ Nat.iterate bitStep (8 * bs.length) e := by
  induction bs generalizing c e with
  | nil => rfl
  | cons b bs ih =>
    have hstep : step1 (c ^^^ e) b = step1 c b ^^^ Nat.iterate bitStep 8 e := by
      rw [← step1_zero_data, ← step1_xor, show b ^^^ 0 = b from BitVec.xor_zero]
    rw [crcRef_cons, crcRef_cons, hstep, ih, ← bitStep_iterate_add]
    rfl

/-- The CRC of `n` doublewords with a seed, from the CRC without one. -/
theorem crcRef_doublewords (c : Word) (d : DataSpace) (a n : Nat) :
    crcRef c (d.bytesAt a (8 * n)) = zeroShiftBy n c ^^^ crcRef 0 (d.bytesAt a (8 * n)) := by
  have h := crcRef_xor_seed 0 c (d.bytesAt a (8 * n))
  rw [show 0 ^^^ c = c from BitVec.zero_xor, bytesAt_length, ← mul_assoc] at h
  rw [h, zeroShiftBy_eq_iterate, BitVec.xor_comm]
  rfl

/-- Three adjoining streams of `n` doublewords, merged, give the CRC of the whole (R152). -/
theorem combine_streams (c : Word) (d : DataSpace) (p : Nat) {n : Nat} (hn : 1 ≤ n) :
    combine (crcRef c (d.bytesAt p (8 * n))) (crcRef 0 (d.bytesAt (p + 8 * n) (8 * n)))
        (crcRef 0 (d.bytesAt (p + 8 * (2 * n)) (8 * n))) n =
      crcRef c (d.bytesAt p (24 * n)) := by
  have hsplit : d.bytesAt p (24 * n) =
      d.bytesAt p (8 * n) ++ d.bytesAt (p + 8 * n) (8 * n) ++ d.bytesAt (p + 8 * (2 * n)) (8 * n) := by
    rw [show 24 * n = 8 * n + 8 * n + 8 * n by omega, bytesAt_append, bytesAt_append]
    congr 2
    omega
  rw [combine_eq_zeroShiftBy _ _ _ hn, hsplit, crcRef_append, crcRef_append,
    crcRef_doublewords (crcRef _ _), crcRef_doublewords (crcRef c _), zeroShiftBy_linear, ← zeroShiftBy_add, Nat.two_mul]

/-- 20_memory.md R62: folding a read is folding its bytes by rising address. -/
theorem stepk_leValue_bytesAt (d : DataSpace) (a k : Nat) (c : Word) :
    stepk k c (BitVec.ofNat (8 * k) (leValue (d.bytesAt a k))) = crcRef c (d.bytesAt a k) := by
  induction k with
  | zero => rfl
  | succ k ih =>
    have hlow : (BitVec.ofNat (8 * (k + 1)) (leValue (d.bytesAt a (k + 1)))).setWidth (8 * k) =
        BitVec.ofNat (8 * k) (leValue (d.bytesAt a k)) := by
      rw [BitVec.setWidth_ofNat_of_le (by omega), leValue_bytesAt_succ]
      apply BitVec.eq_of_toNat_eq
      simp
    have htop : (BitVec.ofNat (8 * (k + 1)) (leValue (d.bytesAt a (k + 1)))).extractLsb' (8 * k) 8 =
        d.byteAt (a + k) := by
      apply BitVec.eq_of_toNat_eq
      rw [BitVec.extractLsb'_toNat, BitVec.toNat_ofNat, Nat.mod_eq_of_lt (leValue_bytesAt_lt ..), leValue_bytesAt_succ,
        Nat.shiftRight_eq_div_pow, Nat.add_mul_div_left _ _ (by positivity),
        Nat.div_eq_of_lt (leValue_bytesAt_lt ..), Nat.zero_add, Nat.mod_eq_of_lt (d.byteAt (a + k)).isLt]
    rw [stepk_succ, hlow, htop, ih, bytesAt_succ_last, crcRef_append]
    rfl

end Sys2Proof.Machine
end

section
/-! What each part of the COMPUTE sequence (42_slicing_engine.md R143) does to the bytes of its buffer: it folds some of them
from the front, or it stops because one of them is not readable. Every part has this one shape, and the shape composes. -/

namespace Sys2Proof.Machine

/-! ### Readable ranges -/

theorem readableRange_add (d : DataSpace) (a m k : Nat) :
    d.readableRange a (m + k) = (d.readableRange a m && d.readableRange (a + m) k) := by
  rw [DataSpace.readableRange, ← List.range'_append_1, List.all_append]
  rfl

/-- A range that contains an unreadable range is not readable. -/
theorem readableRange_eq_false_of_subrange {d : DataSpace} {x k a m : Nat} (h : d.readableRange x k = false)
    (hlo : a ≤ x) (hhi : x + k ≤ a + m) : d.readableRange a m = false := by
  refine Bool.eq_false_iff.2 fun ht => Bool.eq_false_iff.1 h ?_
  rw [readableRange_iff] at ht ⊢
  exact fun y h1 h2 => ht y (by omega) (by omega)

/-- What a read that succeeds says: its bytes are readable, and folding its value folds them. -/
theorem memRead_eq_ok {d : DataSpace} {a k : Nat} {v : BitVec (8 * k)} (h : d.memRead a k = .ok v) :
    d.readableRange a k = true ∧ ∀ c, stepk k c v = crcRef c (d.bytesAt a k) := by
  rcases memRead_cases d a k with ⟨hr, hm⟩ | ⟨-, hm⟩
  · cases hm.symm.trans h
    exact ⟨hr, stepk_leValue_bytesAt d a k⟩
  · cases hm.symm.trans h

/-! ### The shape of a part -/

/-- From `w` to `w'` the first `m` bytes of the remaining buffer were folded. -/
structure Folded (d : DataSpace) (m : Nat) (w w' : Working) : Prop where
  readable : d.readableRange w.p m = true
  c_eq : w'.c = crcRef w.c (d.bytesAt w.p m)
  p_eq : w'.p = w.p + m
  r_add : w'.r + m = w.r

theorem Folded.refl (d : DataSpace) (w : Working) : Folded d 0 w w := ⟨rfl, rfl, rfl, rfl⟩

theorem Folded.trans {d : DataSpace} {m k : Nat} {w w' w'' : Working} (h : Folded d m w w') (h' : Folded d k w' w'') :
    Folded d (m + k) w w'' where
  readable := by rw [readableRange_add, h.readable, ← h.p_eq, h'.readable]; rfl
  c_eq := by rw [h'.c_eq, h.c_eq, h.p_eq, bytesAt_append, crcRef_append]
  p_eq := by rw [h'.p_eq, h.p_eq, Nat.add_assoc]
  r_add := by have := h.r_add; have := h'.r_add; omega

/-- What a part of the sequence may answer from `w`. -/
def FoldsFrom (d : DataSpace) (w : Working) : Except Nat Working → Prop
  | .ok w' => ∃ m, Folded d m w w'
  | .error _ => d.readableRange w.p w.r = false

theorem foldsFrom_pure (d : DataSpace) (w : Working) : FoldsFrom d w (pure w) := ⟨0, Folded.refl d w⟩

/-- One part after another. -/
theorem FoldsFrom.bind {d : DataSpace} {w : Working} {x : Except Nat Working} {f : Working → Except Nat Working}
    (hx : FoldsFrom d w x) (hf : ∀ w', x = .ok w' → FoldsFrom d w' (f w')) : FoldsFrom d w (x >>= f) := by
  cases x with
  | error a => exact hx
  | ok w' =>
    obtain ⟨m, hm⟩ := hx
    have hf := hf w' rfl
    show FoldsFrom d w (f w')
    cases hfw : f w' with
    | ok w'' =>
      rw [hfw] at hf
      obtain ⟨k, hk⟩ := hf
      exact ⟨m + k, hm.trans hk⟩
    | error a =>
      rw [hfw] at hf
      have hp := hm.p_eq
      have hr := hm.r_add
      exact readableRange_eq_false_of_subrange hf (by omega) (by omega)

/-- A run of two parts comes to its end when both do. -/
theorem except_bind_eq_ok {ε α β : Type} {x : Except ε α} {f : α → Except ε β} {b : β} (h : x >>= f = .ok b) :
    ∃ a, x = .ok a ∧ f a = .ok b := by
  cases x with
  | error e => cases h
  | ok a => exact ⟨a, rfl, h⟩

/-! ### Single folds: leading alignment and the tail -/

theorem foldAt_foldsFrom (d : DataSpace) {k : Nat} {w : Working} (hk : k ≤ w.r) : FoldsFrom d w (foldAt d k w) := by
  rcases foldAt_cases d k w with ⟨hr, h⟩ | ⟨hr, h⟩
  · rw [h]
    exact ⟨k, hr, stepk_leValue_bytesAt .., rfl, Nat.sub_add_cancel hk⟩
  · rw [h]
    exact readableRange_eq_false_of_subrange hr le_rfl (by omega)

theorem foldAt_ok_r {d : DataSpace} {k : Nat} {w w' : Working} (h : foldAt d k w = .ok w') : w'.r = w.r - k := by
  rcases foldAt_cases d k w with ⟨-, hf⟩ | ⟨-, hf⟩
  · cases hf.symm.trans h
    rfl
  · cases hf.symm.trans h

theorem alignBit_foldsFrom (d : DataSpace) (b : Nat) (w : Working) : FoldsFrom d w (alignBit d b w) := by
  rcases alignBit_cases d b w with ⟨-, hr, h⟩ | ⟨-, h⟩
  · exact h ▸ foldAt_foldsFrom d hr
  · exact h ▸ foldsFrom_pure d w

theorem alignLeading_foldsFrom (d : DataSpace) (w : Working) : FoldsFrom d w (alignLeading d w) :=
  (alignBit_foldsFrom d 0 w).bind fun _ _ => (alignBit_foldsFrom d 1 _).bind fun _ _ => alignBit_foldsFrom d 2 _

theorem tailOne_foldsFrom (d : DataSpace) (k : Nat) (w : Working) : FoldsFrom d w (tailOne d k w) := by
  rcases tailOne_cases d k w with ⟨hr, h⟩ | ⟨-, h⟩
  · exact h ▸ foldAt_foldsFrom d hr
  · exact h ▸ foldsFrom_pure d w

/-- A line of the tail leaves less than its width, when less than twice its width was left before. -/
theorem tailOne_ok_r_lt {d : DataSpace} {k : Nat} {w w' : Working} (h : tailOne d k w = .ok w') (hw : w.r < 2 * k) :
    w'.r < k := by
  rcases tailOne_cases d k w with ⟨hr, ht⟩ | ⟨hr, ht⟩
  · have := foldAt_ok_r (ht.symm.trans h)
    omega
  · cases ht.symm.trans h
    exact hr

theorem tailWide_foldsFrom (d : DataSpace) (fuel : Nat) (w : Working) : FoldsFrom d w (tailWide d fuel w) := by
  induction fuel generalizing w with
  | zero => exact foldsFrom_pure d w
  | succ fuel ih =>
    rw [tailWide]
    split
    · next h => exact (foldAt_foldsFrom d h).bind fun _ _ => ih _
    · exact foldsFrom_pure d w

theorem tailWide_ok_r_lt {d : DataSpace} {fuel : Nat} {w w' : Working} (h : tailWide d fuel w = .ok w')
    (hw : w.r / 8 ≤ fuel) : w'.r < 8 := by
  induction fuel generalizing w with
  | zero =>
    cases h
    omega
  | succ fuel ih =>
    rw [tailWide] at h
    split at h
    · obtain ⟨w1, h1, h⟩ := except_bind_eq_ok h
      have := foldAt_ok_r h1
      exact ih h (by omega)
    · cases h
      omega

theorem tail_foldsFrom (d : DataSpace) (w : Working) : FoldsFrom d w (tail d w) :=
  (tailWide_foldsFrom d _ w).bind fun _ _ => (tailOne_foldsFrom d 4 _).bind fun _ _ =>
    (tailOne_foldsFrom d 2 _).bind fun _ _ => tailOne_foldsFrom d 1 _

/-- The tail leaves nothing (R156). -/
theorem tail_ok_r {d : DataSpace} {w w' : Working} (h : tail d w = .ok w') : w'.r = 0 := by
  obtain ⟨w1, h1, h⟩ := except_bind_eq_ok h
  obtain ⟨w2, h2, h⟩ := except_bind_eq_ok h
  obtain ⟨w3, h3, h⟩ := except_bind_eq_ok h
  have r1 := tailWide_ok_r_lt h1 le_rfl
  have r2 := tailOne_ok_r_lt h2 r1
  have r3 := tailOne_ok_r_lt h3 r2
  exact Nat.lt_one_iff.1 (tailOne_ok_r_lt h r3)

/-! ### The slicing iteration -/

/-- From `w` to `w'` the first `m` doublewords of each of the three streams were folded (R151). -/
structure StreamsFolded (d : DataSpace) (m : Nat) (w w' : Working) : Prop where
  readable0 : d.readableRange w.p (8 * m) = true
  readable1 : d.readableRange (w.p + 8 * w.n) (8 * m) = true
  readable2 : d.readableRange (w.p + 8 * (2 * w.n)) (8 * m) = true
  a0_eq : w'.a0 = crcRef w.a0 (d.bytesAt w.p (8 * m))
  a1_eq : w'.a1 = crcRef w.a1 (d.bytesAt (w.p + 8 * w.n) (8 * m))
  a2_eq : w'.a2 = crcRef w.a2 (d.bytesAt (w.p + 8 * (2 * w.n)) (8 * m))
  p_eq : w'.p = w.p
  r_eq : w'.r = w.r
  n_eq : w'.n = w.n

/-- The next doubleword of one stream. -/
theorem crcRef_next_doubleword {d : DataSpace} {b m : Nat} {a c : Word} {v : DWord}
    (hv : d.memRead (b + 8 * m) 8 = .ok v) (ha : a = crcRef c (d.bytesAt b (8 * m))) :
    step8 a v = crcRef c (d.bytesAt b (8 * (m + 1))) := by
  rw [ha, Nat.mul_succ, bytesAt_append, crcRef_append]
  exact (memRead_eq_ok hv).2 _

theorem readableRange_next_doubleword {d : DataSpace} {b m : Nat} {v : DWord}
    (hv : d.memRead (b + 8 * m) 8 = .ok v) (h : d.readableRange b (8 * m) = true) :
    d.readableRange b (8 * (m + 1)) = true := by
  rw [Nat.mul_succ, readableRange_add, h]
  exact (memRead_eq_ok hv).1

/-- One step of the streams, from `m` doublewords to `m + 1`. -/
theorem StreamsFolded.next_cases {d : DataSpace} {m : Nat} {w w1 : Working} (h : StreamsFolded d m w w1) (hm : m < w.n) :
    (∃ w', streamStep d w1 m = .ok w' ∧ StreamsFolded d (m + 1) w w') ∨
      (∃ a, streamStep d w1 m = .error a) ∧ d.readableRange w.p (24 * w.n) = false := by
  have hp := h.p_eq
  have hn := h.n_eq
  rcases streamStep_cases d w1 m with ⟨v0, v1, v2, m0, m1, m2, hs⟩ | ⟨hr, hs⟩ | ⟨-, hr, hs⟩ | ⟨-, -, hr, hs⟩
  · rw [hp] at m0
    rw [hp, hn, Nat.mul_add, ← Nat.add_assoc] at m1 m2
    exact .inl ⟨_, hs, {
      readable0 := readableRange_next_doubleword m0 h.readable0
      readable1 := readableRange_next_doubleword m1 h.readable1
      readable2 := readableRange_next_doubleword m2 h.readable2
      a0_eq := crcRef_next_doubleword m0 h.a0_eq
      a1_eq := crcRef_next_doubleword m1 h.a1_eq
      a2_eq := crcRef_next_doubleword m2 h.a2_eq
      p_eq := hp, r_eq := h.r_eq, n_eq := hn }⟩
  · exact .inr ⟨⟨_, hs⟩, readableRange_eq_false_of_subrange hr (by omega) (by omega)⟩
  · exact .inr ⟨⟨_, hs⟩, readableRange_eq_false_of_subrange hr (by omega) (by omega)⟩
  · exact .inr ⟨⟨_, hs⟩, readableRange_eq_false_of_subrange hr (by omega) (by omega)⟩

/-- The first `m` steps of the three-stream fold (R151). -/
theorem streams_cases (d : DataSpace) (w : Working) {m : Nat} (hm : m ≤ w.n) :
    (∃ w', (List.range m).foldlM (streamStep d) w = .ok w' ∧ StreamsFolded d m w w') ∨
      (∃ a, (List.range m).foldlM (streamStep d) w = .error a) ∧ d.readableRange w.p (24 * w.n) = false := by
  induction m with
  | zero => exact .inl ⟨w, rfl, rfl, rfl, rfl, rfl, rfl, rfl, rfl, rfl, rfl⟩
  | succ m ih =>
    have hsplit : (List.range (m + 1)).foldlM (streamStep d) w =
        (List.range m).foldlM (streamStep d) w >>= fun w1 => streamStep d w1 m := by
      simp [List.range_succ]
    rcases ih (by omega) with ⟨w1, hw1, h1⟩ | ⟨⟨a, ha⟩, hr⟩
    · rw [hsplit, hw1]
      exact h1.next_cases hm
    · rw [hsplit, ha]
      exact .inr ⟨⟨a, rfl⟩, hr⟩

/-- The merge of three whole streams (R152, R153). -/
theorem StreamsFolded.folded_combineStep {d : DataSpace} {w w' : Working} (hn : 1 ≤ w.n) (hr : bytesPerIter * w.n ≤ w.r)
    (h0 : w.a0 = w.c) (h1 : w.a1 = 0) (h2 : w.a2 = 0) (h : StreamsFolded d w.n w w') :
    Folded d (bytesPerIter * w.n) w (combineStep w') where
  readable := by
    rw [show bytesPerIter * w.n = 8 * w.n + 8 * w.n + 8 * w.n by rw [bytesPerIter]; omega, readableRange_add,
      readableRange_add, h.readable0, h.readable1, show w.p + (8 * w.n + 8 * w.n) = w.p + 8 * (2 * w.n) by omega,
      h.readable2]
    rfl
  c_eq := by
    show combine w'.a0 w'.a1 w'.a2 w'.n = _
    rw [h.a0_eq, h.a1_eq, h.a2_eq, h.n_eq, h0, h1, h2, combine_streams _ _ _ hn]
    rfl
  p_eq := by
    show w'.p + bytesPerIter * w'.n = _
    rw [h.p_eq, h.n_eq]
  r_add := by
    show w'.r - bytesPerIter * w'.n + _ = _
    rw [h.r_eq, h.n_eq, Nat.sub_add_cancel hr]

theorem sliceIter_eq (p : Params) (d : DataSpace) (w : Working) :
    sliceIter p d w =
      (List.range (iterStart p w).n).foldlM (streamStep d) (iterStart p w) >>= fun w' => pure (combineStep w') := rfl

/-- A slicing iteration under legal parameters (R150 to R153, R160). -/
theorem sliceIter_cases {p : Params} (hp : p.legal = true) (d : DataSpace) {w : Working} (hw : p.threshold ≤ w.r) :
    (∃ w', sliceIter p d w = .ok w' ∧ w'.n = blockLenFor p w.r ∧ Folded d (bytesPerIter * blockLenFor p w.r) w w') ∨
      (∃ a, sliceIter p d w = .error a) ∧ d.readableRange w.p w.r = false := by
  obtain ⟨hn, -, hr⟩ := blockLenFor_bounds hp hw
  rcases streams_cases d (iterStart p w) le_rfl with ⟨w', hs, h⟩ | ⟨⟨a, hs⟩, h⟩
  · have hf := h.folded_combineStep hn hr rfl rfl rfl
    refine .inl ⟨combineStep w', ?_, h.n_eq, ⟨hf.readable, hf.c_eq, hf.p_eq, hf.r_add⟩⟩
    rw [sliceIter_eq, hs]
    rfl
  · refine .inr ⟨⟨a, ?_⟩, readableRange_eq_false_of_subrange h le_rfl (Nat.add_le_add_left hr _)⟩
    rw [sliceIter_eq, hs]
    rfl

theorem sliceIter_foldsFrom {p : Params} (hp : p.legal = true) (d : DataSpace) {w : Working} (hw : p.threshold ≤ w.r) :
    FoldsFrom d w (sliceIter p d w) := by
  rcases sliceIter_cases hp d hw with ⟨w', h, -, hf⟩ | ⟨⟨a, h⟩, hr⟩
  · exact h ▸ ⟨_, hf⟩
  · exact h ▸ hr

theorem sliceLoop_foldsFrom {p : Params} (hp : p.legal = true) (d : DataSpace) (fuel : Nat) (w : Working) :
    FoldsFrom d w (sliceLoop p d fuel w) := by
  induction fuel generalizing w with
  | zero => exact foldsFrom_pure d w
  | succ fuel ih =>
    rw [sliceLoop]
    split
    · next h => exact (sliceIter_foldsFrom hp d h).bind fun _ _ => ih _
    · exact foldsFrom_pure d w

theorem slicedPart_foldsFrom {p : Params} (hp : p.legal = true) (d : DataSpace) (w : Working) :
    FoldsFrom d w (slicedPart p d w) := by
  rw [slicedPart]
  split
  · show FoldsFrom d w (if p.alignLeading then _ else _)
    split
    · exact (alignLeading_foldsFrom d w).bind fun _ _ => sliceLoop_foldsFrom hp d _ _
    · exact (foldsFrom_pure d w).bind fun _ _ => sliceLoop_foldsFrom hp d _ _
  · exact foldsFrom_pure d w

theorem computeRun_foldsFrom {p : Params} (hp : p.legal = true) (d : DataSpace) (w : Working) :
    FoldsFrom d w (computeRun p d w) :=
  (slicedPart_foldsFrom hp d w).bind fun _ _ => tail_foldsFrom d _

/-- The whole sequence, when it comes to its end: all of the buffer was readable, and the accumulator is its reference CRC
(R141). -/
theorem computeRun_ok {p : Params} (hp : p.legal = true) {d : DataSpace} {w w' : Working}
    (h : computeRun p d w = .ok w') :
    d.readableRange w.p w.r = true ∧ w'.c = crcRef w.c (d.bytesAt w.p w.r) := by
  obtain ⟨m, hm⟩ : FoldsFrom d w (.ok w') := h ▸ computeRun_foldsFrom hp d w
  obtain ⟨w1, -, ht⟩ := except_bind_eq_ok h
  have hmr : m = w.r := by rw [← hm.r_add, tail_ok_r ht, Nat.zero_add]
  exact hmr ▸ ⟨hm.readable, hm.c_eq⟩

/-- The whole sequence, when a read faults (R158). -/
theorem computeRun_error {p : Params} (hp : p.legal = true) {d : DataSpace} {w : Working} {a : Nat}
    (h : computeRun p d w = .error a) : d.readableRange w.p w.r = false := by
  have hf := computeRun_foldsFrom hp d w
  rwa [h] at hf

end Sys2Proof.Machine
end

section
/-! The access sequence under legal parameters is empty exactly when the buffer is (20_memory.md R66). -/

namespace Sys2Proof.Machine

/-- Of the `m` bytes at the start none is spent while no access was made. -/
def Accesses.SpendsByAccess (m : Nat) (x : Accesses) : Prop := x.list = [] → x.r = m

theorem Accesses.SpendsByAccess.one {m : Nat} {x : Accesses} (h : x.SpendsByAccess m) (b : Bool) (k : Nat) :
    (x.one b k).SpendsByAccess m := by
  cases b with
  | false => exact h
  | true => exact fun hnil => absurd hnil (by simp [Accesses.one])

theorem Accesses.SpendsByAccess.align {m : Nat} {x : Accesses} (h : x.SpendsByAccess m) : x.align.SpendsByAccess m :=
  ((h.one _ _).one _ _).one _ _

theorem iterAccesses_eq_nil {p n : Nat} (h : iterAccesses p n = []) : n = 0 := by
  cases n with
  | zero => rfl
  | succ n => simp [iterAccesses, List.range_succ] at h

theorem Accesses.SpendsByAccess.slices {m : Nat} (ps : Params) (fuel : Nat) {x : Accesses} (h : x.SpendsByAccess m) :
    (Accesses.slices ps fuel x).SpendsByAccess m := by
  induction fuel generalizing x with
  | zero => exact h
  | succ fuel ih =>
    rw [Accesses.slices]
    split
    · refine ih fun hnil => ?_
      obtain ⟨hx, hi⟩ := List.append_eq_nil_iff.1 hnil
      show x.r - bytesPerIter * blockLenFor ps x.r = m
      rw [iterAccesses_eq_nil hi, h hx]
      rfl
    · exact h

theorem Accesses.SpendsByAccess.sliced {m : Nat} (ps : Params) {x : Accesses} (h : x.SpendsByAccess m) :
    (Accesses.sliced ps x).SpendsByAccess m := by
  have halign : (if ps.alignLeading then x.align else x).SpendsByAccess m := by
    split
    · exact h.align
    · exact h
  rw [Accesses.sliced]
  split
  · exact halign.slices ps _
  · exact h

theorem Accesses.SpendsByAccess.wide {m : Nat} (fuel : Nat) {x : Accesses} (h : x.SpendsByAccess m) :
    (Accesses.wide fuel x).SpendsByAccess m := by
  induction fuel generalizing x with
  | zero => exact h
  | succ fuel ih =>
    rw [Accesses.wide]
    split
    · exact ih (h.one _ _)
    · exact h

theorem Accesses.SpendsByAccess.tail {m : Nat} {x : Accesses} (h : x.SpendsByAccess m) : x.tail.SpendsByAccess m :=
  (((h.wide _).one _ _).one _ _).one _ _

theorem Accesses.wide_r_lt {fuel : Nat} {x : Accesses} (hx : x.r / 8 ≤ fuel) : (Accesses.wide fuel x).r < 8 := by
  induction fuel generalizing x with
  | zero => show x.r < 8; omega
  | succ fuel ih =>
    rw [Accesses.wide]
    split
    · refine ih ?_
      show (x.r - 8) / 8 ≤ fuel
      omega
    · omega

theorem Accesses.one_r_lt {k : Nat} {x : Accesses} (hx : x.r < 2 * k) : (x.one (decide (k ≤ x.r)) k).r < k := by
  by_cases h : k ≤ x.r
  · simp only [Accesses.one, h, decide_true, if_true]
    omega
  · simp only [Accesses.one, h, decide_false, Bool.false_eq_true, if_false]
    omega

theorem Accesses.tail_r (x : Accesses) : x.tail.r = 0 :=
  Nat.lt_one_iff.1 (one_r_lt (k := 1) (one_r_lt (k := 2) (one_r_lt (k := 4) (wide_r_lt (le_refl (x.r / 8))))))

theorem accessSeq_zero {ps : Params} (hp : ps.legal = true) (a : Nat) : accessSeq ps a 0 = [] := by
  obtain ⟨ht, -⟩ := ps.legal_iff.1 hp
  have hs : ¬ ps.threshold ≤ 0 := by omega
  simp [accessSeq, Accesses.sliced, hs, Accesses.tail, Accesses.wide, Accesses.one]

theorem accessSeq_eq_nil_iff {ps : Params} (hp : ps.legal = true) (a m : Nat) : accessSeq ps a m = [] ↔ m = 0 := by
  constructor
  · intro h
    have hstart : Accesses.SpendsByAccess m { list := [], p := a, r := m } := fun _ => rfl
    exact ((hstart.sliced ps).tail h).symm.trans (Accesses.tail_r _)
  · rintro rfl
    exact accessSeq_zero hp a

end Sys2Proof.Machine
end

section
/-! The parameters do not change the result (00_scope.md R8): COMPUTE answers an outcome that no parameter enters, but for
the address of a read fault. -/

namespace Sys2Proof.Machine

/-- The outcome with the address of a read fault left out. -/
def CmdOutcome.forgetAddr : CmdOutcome → CmdOutcome
  | .err (.readFault _) => .err (.readFault 0)
  | o => o

/-- RESULT and STATUS after a completion come from the outcome without its address, the registers and STATUS before. -/
theorem complete_forgetAddr (o : CmdOutcome) {s s' : State} (hregs : s.regs = s'.regs) (hstatus : s.status = s'.status) :
    (complete o s).regs.resultLo = (complete o.forgetAddr s').regs.resultLo ∧
      (complete o s).regs.resultHi = (complete o.forgetAddr s').regs.resultHi ∧
      (complete o s).status = (complete o.forgetAddr s').status := by
  cases o with
  | ok lo hi => simp [CmdOutcome.forgetAddr, Regs.withResult, hstatus]
  | err e =>
    cases e <;> simp [CmdOutcome.forgetAddr, Regs.withFaultAddr, Status.report, CmdError.code, hregs, hstatus]

/-- What COMPUTE answers (R141, R146, R158; 20_memory.md R68, R72), the address of a read fault left out. -/
def computeOutcome (s : State) : CmdOutcome :=
  if dataSpaceSize < s.latch.addr.toNat + s.latch.len.toNat then .err .range
  else if s.disturbed then
    if s.latch.len.toNat ≠ 0 ∧ Config.drawFaults s.draws then .err (.readFault 0) else .ok (Config.drawWord s.draws) 0
  else if s.space.readableRange s.latch.addr.toNat s.latch.len.toNat then
    if s.space.deviceIn s.latch.addr.toNat s.latch.len.toNat then .ok (Config.deviceResult s.draws) 0
    else .ok (crcRef s.latch.crcIn (s.space.bytesAt s.latch.addr.toNat s.latch.len.toNat)) 0
  else .err (.readFault 0)

/-- The draw of 20_memory.md R72: a free choice whether it faults, once the buffer has an access at all. -/
theorem drawOutcome_forgetAddr {ps : Params} (hp : ps.legal = true) (l : Latch) (k : Nat) :
    (drawOutcome ps l k).forgetAddr =
      if l.len.toNat ≠ 0 ∧ Config.drawFaults k then .err (.readFault 0) else .ok (Config.drawWord k) 0 := by
  rw [drawOutcome]
  by_cases hl : l.len.toNat = 0
  · simp [hl, accessSeq_zero hp, CmdOutcome.forgetAddr]
  · have hpos : 0 < (accessSeq ps l.addr.toNat l.len.toNat).length :=
      List.length_pos_iff.2 (mt (accessSeq_eq_nil_iff hp _ _).1 hl)
    simp only [List.getElem?_eq_getElem (Nat.mod_lt (Config.drawAccess k) hpos)]
    cases hf : Config.drawFaults k <;> simp [hl, CmdOutcome.forgetAddr]

/-- `computeOutcome` is what COMPUTE completes with under legal parameters. -/
theorem execCompute_eq_complete {s : State} (hp : s.params.legal = true) :
    ∃ o w k, exec .compute s = .next (complete o { s with work := w, draws := k }) ∧
      o.forgetAddr = computeOutcome s := by
  show ∃ o w k, execCompute s = _ ∧ _
  rcases execCompute_cases s with ⟨hr, h⟩ | ⟨hr, ⟨hd, h⟩ | ⟨hd, ⟨a, hc, h⟩ | ⟨w, hc, ⟨hv, h⟩ | ⟨hv, h⟩⟩⟩⟩
  · exact ⟨_, s.work, s.draws, h, by rw [computeOutcome, if_pos hr]; rfl⟩
  · exact ⟨_, s.work, s.draws + 1, h, by
      rw [drawOutcome_forgetAddr hp, computeOutcome, if_neg hr.not_gt, if_pos hd]⟩
  · have hb : s.space.readableRange s.latch.addr.toNat s.latch.len.toNat = false := computeRun_error hp hc
    exact ⟨_, s.work, s.draws, h, by simp [computeOutcome, hr.not_gt, hd, hb, CmdOutcome.forgetAddr]⟩
  · have hb : s.space.readableRange s.latch.addr.toNat s.latch.len.toNat = true := (computeRun_ok hp hc).1
    exact ⟨_, w, s.draws + 1, h, by simp [computeOutcome, hr.not_gt, hd, hb, hv, CmdOutcome.forgetAddr]⟩
  · obtain ⟨hb, hcrc⟩ : s.space.readableRange s.latch.addr.toNat s.latch.len.toNat = true ∧
        w.c = crcRef s.latch.crcIn (s.space.bytesAt s.latch.addr.toNat s.latch.len.toNat) := computeRun_ok hp hc
    exact ⟨_, w, s.draws, h, by simp [computeOutcome, hr.not_gt, hd, hb, hv, hcrc, CmdOutcome.forgetAddr]⟩

/-- Settles O31: both completions have the outcome `computeOutcome s`, in which no parameter stands. -/
theorem parametersDoNotChangeTheResult : Obligations.ParametersDoNotChangeTheResult := by
  intro s t t' q hs hq ht ht'
  obtain ⟨o, w, k, he, ho⟩ := execCompute_eq_complete hs
  obtain ⟨o', w', k', he', ho'⟩ := execCompute_eq_complete (s := { s with params := q }) hq
  cases he.symm.trans ht
  cases he'.symm.trans ht'
  have hoo : o'.forgetAddr = o.forgetAddr := ho'.trans ho.symm
  obtain ⟨hlo, hhi, hst⟩ := complete_forgetAddr o (s := { s with work := w, draws := k }) (s' := s) rfl rfl
  obtain ⟨hlo', hhi', hst'⟩ :=
    complete_forgetAddr o' (s := { s with params := q, work := w', draws := k' }) (s' := s) rfl rfl
  rw [hlo, hhi, hst, hlo', hhi', hst', hoo]
  exact ⟨rfl, rfl, rfl⟩

end Sys2Proof.Machine
end

section
/-! The widths of the working registers (10_state.md R42) through the sequence of COMPUTE: `p` and `r` by the bytes folded so
far, `n` and `i` by the block length. -/

namespace Sys2Proof.Machine

/-- `n` and `i` fit their 15 bits. -/
def Working.IndexFits (w : Working) : Prop := w.n < 2 ^ 15 ∧ w.i < 2 ^ 15

/-- A part of the sequence keeps the widths of `n` and `i`. -/
def KeepsIndexFits (w : Working) (x : Except Nat Working) : Prop := w.IndexFits → ∀ w', x = .ok w' → w'.IndexFits

theorem keepsIndexFits_pure (w : Working) : KeepsIndexFits w (pure w) := by
  rintro h _ ⟨⟩
  exact h

theorem KeepsIndexFits.bind {w : Working} {x : Except Nat Working} {f : Working → Except Nat Working}
    (hx : KeepsIndexFits w x) (hf : ∀ w', KeepsIndexFits w' (f w')) : KeepsIndexFits w (x >>= f) := by
  intro h w'' hb
  obtain ⟨w', hw', hfw⟩ := except_bind_eq_ok hb
  exact hf w' (hx h w' hw') w'' hfw

theorem foldAt_keepsIndexFits (d : DataSpace) (k : Nat) (w : Working) : KeepsIndexFits w (foldAt d k w) := by
  intro h w' hw'
  rcases foldAt_cases d k w with ⟨-, hf⟩ | ⟨-, hf⟩
  · cases hf.symm.trans hw'
    exact h
  · cases hf.symm.trans hw'

theorem alignBit_keepsIndexFits (d : DataSpace) (b : Nat) (w : Working) : KeepsIndexFits w (alignBit d b w) := by
  rcases alignBit_cases d b w with ⟨-, -, h⟩ | ⟨-, h⟩
  · exact h ▸ foldAt_keepsIndexFits d _ w
  · exact h ▸ keepsIndexFits_pure w

theorem alignLeading_keepsIndexFits (d : DataSpace) (w : Working) : KeepsIndexFits w (alignLeading d w) :=
  (alignBit_keepsIndexFits d 0 w).bind fun _ => (alignBit_keepsIndexFits d 1 _).bind fun _ =>
    alignBit_keepsIndexFits d 2 _

theorem tailOne_keepsIndexFits (d : DataSpace) (k : Nat) (w : Working) : KeepsIndexFits w (tailOne d k w) := by
  rcases tailOne_cases d k w with ⟨-, h⟩ | ⟨-, h⟩
  · exact h ▸ foldAt_keepsIndexFits d k w
  · exact h ▸ keepsIndexFits_pure w

theorem tailWide_keepsIndexFits (d : DataSpace) (fuel : Nat) (w : Working) : KeepsIndexFits w (tailWide d fuel w) := by
  induction fuel generalizing w with
  | zero => exact keepsIndexFits_pure w
  | succ fuel ih =>
    rw [tailWide]
    split
    · exact (foldAt_keepsIndexFits d 8 w).bind ih
    · exact keepsIndexFits_pure w

theorem tail_keepsIndexFits (d : DataSpace) (w : Working) : KeepsIndexFits w (tail d w) :=
  (tailWide_keepsIndexFits d _ w).bind fun _ => (tailOne_keepsIndexFits d 4 _).bind fun _ =>
    (tailOne_keepsIndexFits d 2 _).bind fun _ => tailOne_keepsIndexFits d 1 _

/-- A step of the three-stream fold sets `i` to its own number and leaves `n`. -/
theorem streamStep_keepsIndexFits (d : DataSpace) (w : Working) {i : Nat} (hi : i < 2 ^ 15) :
    KeepsIndexFits w (streamStep d w i) := by
  intro h w' hw'
  rcases streamStep_cases d w i with ⟨v0, v1, v2, -, -, -, hs⟩ | ⟨-, hs⟩ | ⟨-, -, hs⟩ | ⟨-, -, -, hs⟩
  · cases hs.symm.trans hw'
    exact ⟨h.1, hi⟩
  · cases hs.symm.trans hw'
  · cases hs.symm.trans hw'
  · cases hs.symm.trans hw'

theorem streams_keepsIndexFits (d : DataSpace) {is : List Nat} (his : ∀ i ∈ is, i < 2 ^ 15) (w : Working) :
    KeepsIndexFits w (is.foldlM (streamStep d) w) := by
  induction is generalizing w with
  | nil => exact keepsIndexFits_pure w
  | cons i is ih =>
    obtain ⟨hi, his⟩ := List.forall_mem_cons.1 his
    rw [List.foldlM_cons]
    exact (streamStep_keepsIndexFits d w hi).bind (ih his)

theorem blockLenFor_lt {p : Params} (hp : p.legal = true) (r : Nat) : blockLenFor p r < 2 ^ 15 := by
  obtain ⟨-, -, -, hmax⟩ := (Params.legal_iff p).1 hp
  calc blockLenFor p r ≤ p.maxBlockLen := Nat.min_le_left ..
    _ < 2 ^ 15 := by omega

theorem sliceIter_keepsIndexFits {p : Params} (hp : p.legal = true) (d : DataSpace) (w : Working) :
    KeepsIndexFits w (sliceIter p d w) := by
  intro h w' hw'
  have hn : blockLenFor p w.r < 2 ^ 15 := blockLenFor_lt hp w.r
  obtain ⟨w1, hs, hc⟩ := except_bind_eq_ok ((sliceIter_eq p d w).symm.trans hw')
  cases hc
  exact streams_keepsIndexFits d (fun i hi => (List.mem_range.1 hi).trans hn) (iterStart p w) ⟨hn, h.2⟩ w1 hs

theorem sliceLoop_keepsIndexFits {p : Params} (hp : p.legal = true) (d : DataSpace) (fuel : Nat) (w : Working) :
    KeepsIndexFits w (sliceLoop p d fuel w) := by
  induction fuel generalizing w with
  | zero => exact keepsIndexFits_pure w
  | succ fuel ih =>
    rw [sliceLoop]
    split
    · exact (sliceIter_keepsIndexFits hp d w).bind ih
    · exact keepsIndexFits_pure w

theorem slicedPart_keepsIndexFits {p : Params} (hp : p.legal = true) (d : DataSpace) (w : Working) :
    KeepsIndexFits w (slicedPart p d w) := by
  rw [slicedPart]
  split
  · show KeepsIndexFits w (if p.alignLeading then _ else _)
    split
    · exact (alignLeading_keepsIndexFits d w).bind fun _ => sliceLoop_keepsIndexFits hp d _ _
    · exact (keepsIndexFits_pure w).bind fun _ => sliceLoop_keepsIndexFits hp d _ _
  · exact keepsIndexFits_pure w

/-- The whole sequence, over a buffer in range, keeps every width. -/
theorem computeRun_fits {p : Params} (hp : p.legal = true) {d : DataSpace} {w w' : Working} (hw : w.Fits)
    (hrange : w.p + w.r ≤ 2 ^ 64) (h : computeRun p d w = .ok w') : w'.Fits := by
  obtain ⟨m, hm⟩ : FoldsFrom d w (.ok w') := h ▸ computeRun_foldsFrom hp d w
  obtain ⟨hn, hi⟩ : w'.IndexFits :=
    (slicedPart_keepsIndexFits hp d w).bind (tail_keepsIndexFits d) ⟨hw.n_lt, hw.i_lt⟩ w' h
  have hpe := hm.p_eq
  have hra := hm.r_add
  have hr := hw.r_lt
  exact ⟨by omega, by omega, hn, hi⟩

end Sys2Proof.Machine
end

section
/-! The invariant along a step: each agent's move keeps it. -/

namespace Sys2Proof.Machine

/-- A command leaves working registers that fit their widths. -/
theorem exec_work_fits {i : Instr} {s t : State} (hp : s.params.legal = true) (hw : s.work.Fits)
    (h : exec i s = .next t) : t.work.Fits := by
  cases i with
  | compute =>
    replace h : execCompute s = .next t := h
    rcases execCompute_cases s with ⟨-, he⟩ | ⟨hr, ⟨-, he⟩ | ⟨-, ⟨a, -, he⟩ | ⟨w, hc, he⟩⟩⟩
    · cases he.symm.trans h
      exact hw
    · cases he.symm.trans h
      rw [complete_work]
      exact hw
    · cases he.symm.trans h
      exact hw
    · have hstart : (computeStart s.latch s.work).Fits :=
        ⟨s.latch.addr.isLt.le, s.latch.len.isLt, hw.n_lt, hw.i_lt⟩
      have hend : w.Fits := computeRun_fits hp hstart hr hc
      rcases he with ⟨-, he⟩ | ⟨-, he⟩
      · cases he.symm.trans h
        exact hend
      · cases he.symm.trans h
        exact hend
  | step1 => cases h; exact hw
  | step2 => cases h; exact hw
  | step4 => cases h; exact hw
  | step8 => cases h; exact hw
  | clmul => cases h; exact hw
  | romrd =>
    cases h
    rw [complete_work]
    exact hw
  | combine =>
    cases h
    rw [complete_work]
    exact hw

theorem engineMove_work_fits {s t : State} (hp : s.params.legal = true) (hw : s.work.Fits)
    (h : engineMove s = .next t) : t.work.Fits := by
  unfold engineMove at h
  split at h
  · split at h
    · exact exec_work_fits hp hw h
    · cases h
      exact hw
  · cases h
    exact hw

theorem CmdError.code_ne_zero (e : CmdError) : e.code ≠ 0 := by cases e <;> simp [CmdError.code]

theorem CmdError.code_le (e : CmdError) : e.code.toNat ≤ 4 := by cases e <;> simp [CmdError.code]

/-- A completion keeps the invariant (10_state.md R44): it reports `ERR` and a code together, or neither. -/
theorem State.Inv.complete {s : State} (h : s.Inv) (o : CmdOutcome) : (complete o s).Inv where
  errCode_iff := by
    cases o with
    | ok lo hi => exact h.errCode_iff
    | err e => exact iff_of_true e.code_ne_zero rfl
  errCode_le := by
    cases o with
    | ok lo hi => exact h.errCode_le
    | err e => exact e.code_le
  busy_done := by simp
  busy_err := by simp
  disturbed_busy := by simp
  work_fits := by simpa using h.work_fits
  memory_wf := by simpa using h.memory_wf
  vars_wf := by simpa using h.vars_wf

theorem State.Inv.engineMove {s t : State} (h : s.Inv) (hp : s.params.legal = true)
    (hm : engineMove s = .next t) : t.Inv := by
  have hwork : t.work.Fits := engineMove_work_fits hp h.work_fits hm
  rcases engineMove_cases s with ⟨-, he⟩ | ⟨-, o, w, k, he⟩
  · cases he.symm.trans hm
    exact h
  · cases he.symm.trans hm
    rw [complete_work] at hwork
    have hw : ({ s with work := w, draws := k } : State).Inv := { h with work_fits := hwork }
    exact hw.complete o

theorem State.Inv.acceptCmd {s : State} (h : s.Inv) (v : Word) : (acceptCmd v s).Inv :=
  { h with
    errCode_iff := by simp [Status.accept]
    errCode_le := by simp [Status.accept]
    busy_done := fun _ => rfl
    busy_err := fun _ => rfl
    disturbed_busy := by simp }

theorem State.Inv.submitCmd {s : State} (h : s.Inv) (v : Word) : (submitCmd v s).Inv := by
  rcases submitCmd_cases v s with ⟨-, hs⟩ | ⟨-, hs⟩
  · rw [hs]
    exact { h with }
  · rw [hs]
    exact h.acceptCmd v

/-- Bit 2 of a STATUS write clears `ERR` and its code together (10_state.md R27). -/
theorem State.Inv.acknowledge {s : State} (h : s.Inv) (w : Word) : (acknowledge w s).Inv :=
  { h with
    errCode_iff := by
      rw [acknowledge_status, Status.writeOneToClear]
      cases w.getLsbD 2
      · simpa using h.errCode_iff
      · simp
    errCode_le := by
      rw [acknowledge_status, Status.writeOneToClear]
      cases w.getLsbD 2
      · exact h.errCode_le
      · simp
    busy_done := fun hb => by simp [Status.writeOneToClear, h.busy_done hb]
    busy_err := fun hb => by simp [Status.writeOneToClear, h.busy_err hb] }

theorem State.Inv.windowWrite {s : State} (h : s.Inv) (off : Nat) (v : Word) : (windowWrite off v s).Inv := by
  rcases windowWrite_cases off v s with hw | ⟨-, hw⟩ | ⟨-, hw⟩ | ⟨-, hw⟩ | ⟨r, hw, -⟩
  · rw [hw]
    exact h
  · rw [hw]
    exact h.submitCmd v
  · rw [hw]
    exact h.acknowledge v
  · rw [hw]
    exact { h with }
  · rw [hw]
    exact { h with }

/-- A mark of the buffer that is set while BUSY alone (20_memory.md R72). -/
theorem State.Inv.mark_busy {s : State} (h : s.Inv) {b : Bool} (hd : (s.disturbed || (s.isBusy && b)) = true) :
    s.seq = .busy := by
  rcases Bool.or_eq_true_iff.1 hd with hd | hb
  · exact h.disturbed_busy hd
  · exact (isBusy_iff s).1 (Bool.and_eq_true_iff.1 hb).1

theorem State.Inv.runStmt {st : HostStmt} {s t : State} (h : s.Inv) (hr : runStmt st s = .next t) : t.Inv := by
  rcases runStmt_cases hr with ⟨hh, rfl, hvars, -⟩ | ⟨-, -, -, off, -, -, rfl⟩ | ⟨a, b, -, ha, rfl⟩ | ⟨rs, -, rfl⟩
  · exact { h with vars_wf := hvars h.vars_wf }
  · exact h.windowWrite off _
  · exact { h with disturbed_busy := h.mark_busy, memory_wf := memory_wf_writeByte h.memory_wf ha b }
  · exact { h with disturbed_busy := h.mark_busy }

theorem State.Inv.hostMove {s t : State} (h : s.Inv) (hm : hostMove s = .next t) : t.Inv := by
  rcases hostMove_cases s with ⟨-, he⟩ | ⟨st, rest, -, he⟩
  · cases he.symm.trans hm
    exact h
  · have hpop : (popStmt s).Inv := { h with }
    exact hpop.runStmt (he.symm.trans hm)

/-- Reset clears the block; what it leaves is well formed already (70_reset_and_hazards.md R210, R211). -/
theorem State.Inv.blockReset {s : State} (h : s.Inv) : (blockReset s).Inv :=
  { h with
    errCode_iff := by simp [Status.reset]
    errCode_le := by simp [Status.reset]
    busy_done := nofun
    busy_err := nofun
    disturbed_busy := nofun
    work_fits := by constructor <;> simp [Working.reset] }

/-- Settles O48: the taking of a turn touches nothing the invariant speaks of, and each agent's move keeps it. -/
theorem everyStepKeepsTheInvariant : Obligations.EveryStepKeepsTheInvariant := by
  intro s t h hs
  have hpop : (popTurn s).Inv := { h with }
  obtain ⟨hp, ⟨-, rfl⟩ | ⟨-, rfl⟩ | ⟨-, hm⟩ | ⟨-, hm⟩⟩ := step_cases hs
  · exact hpop
  · exact hpop.blockReset
  · exact hpop.engineMove hp hm
  · exact hpop.hostMove hm

/-- Settles O47: the state after reset is a closed one. -/
theorem resetMeetsTheInvariant : Obligations.ResetMeetsTheInvariant where
  errCode_iff := by decide
  errCode_le := by decide
  busy_done := nofun
  busy_err := nofun
  disturbed_busy := nofun
  work_fits := ⟨by decide, by decide, by decide, by decide⟩
  memory_wf := by decide
  vars_wf := by decide

end Sys2Proof.Machine
end

section
/-! What a completion and a host move leave, said once: the parameters, the operand registers, OVR, RESULT and FAULT_ADDR. -/

namespace Sys2Proof.Machine
open Sys2Proof.Claims

/-! ### Completions -/

@[simp] theorem complete_status_done (o : CmdOutcome) (s : State) : (complete o s).status.done = true := by
  cases o <;> rfl

@[simp] theorem complete_status_ovr (o : CmdOutcome) (s : State) : (complete o s).status.ovr = s.status.ovr := by
  cases o <;> rfl

/-- A completion writes RESULT and FAULT_ADDR at most (10_state.md R44). -/
theorem complete_regs_eq (o : CmdOutcome) (s : State) :
    ∃ lo hi flo fhi, (complete o s).regs =
      { s.regs with resultLo := lo, resultHi := hi, faultAddrLo := flo, faultAddrHi := fhi } := by
  cases o with
  | ok lo hi => exact ⟨lo, hi, _, _, rfl⟩
  | err e =>
    cases e with
    | readFault a => exact ⟨_, _, lowWord a, highWord a, rfl⟩
    | illegalCmd => exact ⟨_, _, _, _, rfl⟩
    | badBlockLen => exact ⟨_, _, _, _, rfl⟩
    | range => exact ⟨_, _, _, _, rfl⟩

/-- An error report leaves RESULT (10_state.md R34). -/
theorem complete_err_result (e : CmdError) (s : State) :
    (complete (.err e) s).regs.resultLo = s.regs.resultLo ∧ (complete (.err e) s).regs.resultHi = s.regs.resultHi := by
  cases e <;> exact ⟨rfl, rfl⟩

/-- Only the report of READ_FAULT writes FAULT_ADDR (10_state.md R35). -/
theorem complete_faultAddr_cases (o : CmdOutcome) (s : State) :
    (∃ a, o = .err (.readFault a)) ∨ (complete o s).regs.faultAddr = s.regs.faultAddr := by
  cases o with
  | ok lo hi => exact .inr rfl
  | err e =>
    cases e with
    | readFault a => exact .inl ⟨a, rfl⟩
    | illegalCmd => exact .inr rfl
    | badBlockLen => exact .inr rfl
    | range => exact .inr rfl

theorem operandReg_cases {r : Reg} (hr : r ∈ operandRegs) :
    r = .crcIn ∨ r = .addrLo ∨ r = .addrHi ∨ r = .lenLo ∨ r = .lenHi ∨ r = .opaLo ∨ r = .opaHi ∨ r = .opb := by
  simpa [operandRegs] using hr

/-- What an operand register reads does not depend on RESULT and FAULT_ADDR. -/
theorem Reg.read_operand_congr {r : Reg} (hr : r ∈ operandRegs) {s t : State} {lo hi flo fhi : Word}
    (h : t.regs = { s.regs with resultLo := lo, resultHi := hi, faultAddrLo := flo, faultAddrHi := fhi }) :
    r.read t = r.read s := by
  rcases operandReg_cases hr with rfl | rfl | rfl | rfl | rfl | rfl | rfl | rfl <;> simp only [Reg.read, h]

theorem Reg.read_operand_complete {r : Reg} (hr : r ∈ operandRegs) (o : CmdOutcome) (s : State) :
    r.read (complete o s) = r.read s := by
  obtain ⟨lo, hi, flo, fhi, h⟩ := complete_regs_eq o s
  exact Reg.read_operand_congr hr h

/-- Settles O35: every meaning is a completion, and a completion leaves all of these. -/
theorem completionKeepsOperandsAndMemory : Obligations.CompletionKeepsOperandsAndMemory := by
  intro i s
  obtain ⟨o, w, k, he⟩ := exec_eq_complete i s
  refine ⟨_, he, fun r hr => ?_, ?_⟩
  · rw [Reg.read_operand_complete hr]
    exact Reg.read_operand_congr hr rfl
  · simp

/-! ### The engine's move -/

/-- An accepted command completes at the engine's move (10_state.md R44). -/
theorem engineMove_completes {s : State} (hb : s.seq = .busy) :
    ∃ t, engineMove s = .next t ∧ t.seq = .idle ∧ t.status.done = true ∧ t.turns = s.turns := by
  rcases engineMove_cases s with ⟨hi, -⟩ | ⟨-, o, w, k, he⟩
  · simp [hb] at hi
  · exact ⟨_, he, by simp, by simp, by simp⟩

/-- The engine leaves the parameters, REG_BASE and the data space. -/
theorem engineMove_frame {s t : State} (h : engineMove s = .next t) :
    t.params = s.params ∧ t.regBase = s.regBase ∧ t.space = s.space := by
  rcases engineMove_cases s with ⟨-, he⟩ | ⟨-, o, w, k, he⟩
  · cases he.symm.trans h
    exact ⟨rfl, rfl, rfl⟩
  · cases he.symm.trans h
    simp

/-! ### The host's move -/

@[simp] theorem submitCmd_params (v : Word) (s : State) : (submitCmd v s).params = s.params := by
  rcases submitCmd_cases v s with ⟨-, h⟩ | ⟨-, h⟩ <;> simp [h]

@[simp] theorem submitCmd_regBase (v : Word) (s : State) : (submitCmd v s).regBase = s.regBase := by
  rcases submitCmd_cases v s with ⟨-, h⟩ | ⟨-, h⟩ <;> simp [h]

@[simp] theorem submitCmd_regs (v : Word) (s : State) : (submitCmd v s).regs = s.regs := by
  rcases submitCmd_cases v s with ⟨-, h⟩ | ⟨-, h⟩ <;> simp [h]

@[simp] theorem submitCmd_space (v : Word) (s : State) : (submitCmd v s).space = s.space := by
  rcases submitCmd_cases v s with ⟨-, h⟩ | ⟨-, h⟩ <;> simp [h]

/-- A window write leaves the parameters, REG_BASE and the data space. -/
theorem windowWrite_frame (off : Nat) (v : Word) (s : State) :
    (windowWrite off v s).params = s.params ∧ (windowWrite off v s).regBase = s.regBase ∧
      (windowWrite off v s).space = s.space := by
  rcases windowWrite_cases off v s with h | ⟨-, h⟩ | ⟨-, h⟩ | ⟨-, h⟩ | ⟨r, h, -⟩ <;> simp [h]

/-- The host's move leaves the parameters and REG_BASE; a store and a change of the map alone write the data space
(10_state.md R20). -/
theorem hostMove_frame {s t : State} (h : hostMove s = .next t) :
    t.params = s.params ∧ t.regBase = s.regBase ∧ (t.space ≠ s.space →
      ∃ rest, (∃ a b, s.host.program = .store a b :: rest) ∨ ∃ rs, s.host.program = .remap rs :: rest) := by
  rcases hostMove_cases s with ⟨-, he⟩ | ⟨st, rest, hst, he⟩
  · cases he.symm.trans h
    exact ⟨rfl, rfl, fun hne => absurd rfl hne⟩
  · rcases runStmt_cases (he.symm.trans h) with ⟨hh, rfl, -⟩ | ⟨-, -, e, off, -, -, rfl⟩ | ⟨a, b, rfl, -, rfl⟩ | ⟨rs, rfl, rfl⟩
    · exact ⟨rfl, rfl, fun hne => absurd rfl hne⟩
    · obtain ⟨hp, hb, hs⟩ := windowWrite_frame off (e.eval (popStmt s).host) (popStmt s)
      exact ⟨hp, hb, fun hne => absurd hs hne⟩
    · exact ⟨rfl, rfl, fun _ => ⟨rest, .inl ⟨a, b, hst⟩⟩⟩
    · exact ⟨rfl, rfl, fun _ => ⟨rest, .inr ⟨rs, hst⟩⟩⟩

/-- RESULT and FAULT_ADDR, the registers that completions write, hold the same in `r` and `r'`. -/
structure Regs.SameReport (r r' : Regs) : Prop where
  resultLo : r'.resultLo = r.resultLo
  resultHi : r'.resultHi = r.resultHi
  faultAddrLo : r'.faultAddrLo = r.faultAddrLo
  faultAddrHi : r'.faultAddrHi = r.faultAddrHi

theorem Regs.SameReport.of_eq {r r' : Regs} (h : r' = r) : r.SameReport r' := by
  cases h
  exact ⟨rfl, rfl, rfl, rfl⟩

theorem Regs.SameReport.faultAddr_eq {r r' : Regs} (h : r.SameReport r') : r'.faultAddr = r.faultAddr := by
  rw [Regs.faultAddr, h.faultAddrHi, h.faultAddrLo, Regs.faultAddr]

theorem windowWrite_sameReport (off : Nat) (v : Word) (s : State) : s.regs.SameReport (windowWrite off v s).regs := by
  rcases windowWrite_cases off v s with h | ⟨-, h⟩ | ⟨-, h⟩ | ⟨-, h⟩ | ⟨r, h, hlo, hhi, hflo, hfhi⟩
  · exact .of_eq (by simp [h])
  · exact .of_eq (by simp [h])
  · exact .of_eq (by simp [h])
  · exact .of_eq (by simp [h])
  · rw [h]
    exact ⟨hlo, hhi, hflo, hfhi⟩

/-- The host writes neither RESULT nor FAULT_ADDR (10_state.md R34, R35). -/
theorem hostMove_sameReport {s t : State} (h : hostMove s = .next t) : s.regs.SameReport t.regs := by
  rcases hostMove_cases s with ⟨-, he⟩ | ⟨st, rest, -, he⟩
  · cases he.symm.trans h
    exact .of_eq rfl
  · rcases runStmt_cases (he.symm.trans h) with ⟨hh, rfl, -⟩ | ⟨-, -, e, off, -, -, rfl⟩ | ⟨a, b, -, -, rfl⟩ | ⟨rs, -, rfl⟩
    · exact .of_eq rfl
    · exact windowWrite_sameReport off _ (popStmt s)
    · exact .of_eq rfl
    · exact .of_eq rfl

end Sys2Proof.Machine
end

section
/-! Which steps write RESULT, FAULT_ADDR, the data space and the parameters (10_state.md R20, R34, R35; 00_scope.md R6). -/

namespace Sys2Proof.Machine

/-- A step that is no reset and no completion leaves RESULT and FAULT_ADDR. -/
theorem step_report_cases {s t : State} (h : step s = .next t) :
    s.nextAgent = some .reset ∨
      (s.nextAgent = some .engine ∧ s.seq = .busy ∧
        ∃ o w k, t = complete o { popTurn s with work := w, draws := k }) ∨
      s.regs.SameReport t.regs := by
  obtain ⟨-, ⟨-, rfl⟩ | ⟨hn, -⟩ | ⟨hn, hm⟩ | ⟨-, hm⟩⟩ := step_cases h
  · exact .inr (.inr (.of_eq rfl))
  · exact .inl hn
  · rcases engineMove_cases (popTurn s) with ⟨-, he⟩ | ⟨hb, o, w, k, he⟩
    · cases he.symm.trans hm
      exact .inr (.inr (.of_eq rfl))
    · cases he.symm.trans hm
      exact .inr (.inl ⟨hn, hb, o, w, k, rfl⟩)
  · exact .inr (.inr (hostMove_sameReport (s := popTurn s) hm))

/-- Settles O49: while BUSY the invariant keeps ERR at 0, so a completion without an error report leaves it at 0. -/
theorem resultChangesOnlyAtSuccess : Obligations.ResultChangesOnlyAtSuccess := by
  intro s t hinv hs hne
  rcases step_report_cases hs with hr | ⟨hn, hb, o, w, k, rfl⟩ | hsame
  · exact .inl hr
  · cases o with
    | ok lo hi => exact .inr ⟨hn, hb, rfl, rfl, hinv.busy_err hb⟩
    | err e =>
      obtain ⟨hlo, hhi⟩ := complete_err_result e { popTurn s with work := w, draws := k }
      exact absurd hne (not_or.2 ⟨not_not.2 hlo, not_not.2 hhi⟩)
  · exact absurd hne (not_or.2 ⟨not_not.2 hsame.resultLo, not_not.2 hsame.resultHi⟩)

/-- Settles O50: of the completions only the report of READ_FAULT writes FAULT_ADDR. -/
theorem faultAddrChangesOnlyAtReadFault : Obligations.FaultAddrChangesOnlyAtReadFault := by
  intro s t hs hne
  rcases step_report_cases hs with hr | ⟨hn, hb, o, w, k, rfl⟩ | hsame
  · exact .inl hr
  · rcases complete_faultAddr_cases o { popTurn s with work := w, draws := k } with ⟨a, rfl⟩ | heq
    · exact .inr ⟨hn, hb, rfl, rfl, rfl⟩
    · exact absurd heq hne
  · exact absurd hsame.faultAddr_eq hne

/-- Settles O52: reset and the engine leave the data space, and the host's statement says when it writes. -/
theorem onlyTheHostWritesTheDataSpace : Obligations.OnlyTheHostWritesTheDataSpace := by
  intro s t hs
  obtain ⟨-, ⟨-, rfl⟩ | ⟨-, rfl⟩ | ⟨-, hm⟩ | ⟨hn, hm⟩⟩ := step_cases hs
  · exact ⟨rfl, rfl, fun hne => absurd rfl hne⟩
  · exact ⟨rfl, rfl, fun hne => absurd rfl hne⟩
  · obtain ⟨hp, hb, hspace⟩ := engineMove_frame hm
    exact ⟨hp, hb, fun hne => absurd hspace hne⟩
  · obtain ⟨hp, hb, hspace⟩ := hostMove_frame hm
    exact ⟨hp, hb, fun hne => ⟨hn, hspace hne⟩⟩

end Sys2Proof.Machine
end

section
/-! Whose move a step is, and what a command's own step is (10_state.md R20, R43, R44). -/

namespace Sys2Proof.Machine

theorem step_of_legal {s : State} (hp : s.params.legal = true) : step s = agentMove s.nextAgent (popTurn s) := by
  rw [step, if_pos hp]

theorem step_of_nextAgent {s : State} {a : Option Agent} (hp : s.params.legal = true) (hn : s.nextAgent = a) :
    step s = agentMove a (popTurn s) := by
  rw [step_of_legal hp, hn]

theorem engineMove_of_decode {s : State} {i : Instr} (hb : s.seq = .busy) (hd : decodeWord s.latch.cmd = .ok i) :
    engineMove s = exec i s := by
  simp [engineMove, (isBusy_iff s).2 hb, hd]

theorem engineMove_of_idle {s : State} (hi : s.seq = .idle) : engineMove s = .next s := by
  simp [engineMove, (isBusy_eq_false_iff s).2 hi]

theorem hostMove_of_nil {s : State} (h : s.host.program = []) : hostMove s = .next s := by rw [hostMove, h]

theorem hostMove_of_cons {s : State} {st : HostStmt} {rest : List HostStmt} (h : s.host.program = st :: rest) :
    hostMove s = runStmt st (popStmt s) := by rw [hostMove, h]

theorem nextAgent_cons {s : State} {a : Agent} {ts : List Agent} (h : s.turns = a :: ts) : s.nextAgent = some a := by
  rw [State.nextAgent, h]

theorem nextAgent_nil_busy {s : State} (h : s.turns = []) (hb : s.seq = .busy) : s.nextAgent = some .engine := by
  simp [State.nextAgent, h, (isBusy_iff s).2 hb]

theorem nextAgent_nil_idle {s : State} (h : s.turns = []) (hi : s.seq = .idle) :
    s.nextAgent = if s.host.program.isEmpty then none else some .host := by
  simp [State.nextAgent, h, (isBusy_eq_false_iff s).2 hi]

theorem turns_eq_nil_of_nextAgent_none {s : State} (h : s.nextAgent = none) : s.turns = [] := by
  cases ht : s.turns with
  | nil => rfl
  | cons a ts => cases (nextAgent_cons ht).symm.trans h

/-- Without a turn to take, the state stays as it is. -/
theorem popTurn_eq_self {s : State} (h : s.turns = []) : popTurn s = s := by
  rw [popTurn, h, List.tail_nil, ← h]

theorem withFetchWord_toNat (s : State) (w : Word) : s.withFetchWord 32 w.toNat = afterSubmission w s := by
  rw [State.withFetchWord, Nat.mod_eq_of_lt w.isLt, BitVec.ofNat_toNat, BitVec.setWidth_eq]

/-- Settles O5: the schedule names the agent, `step` runs its move, and the engine's move decodes the latched word. -/
theorem stepRunsTheDecodedCommand : Obligations.StepRunsTheDecodedCommand := by
  refine ⟨fun s i hp hb hn hd => ?_,
    fun s hp => ⟨step_of_nextAgent hp, step_of_nextAgent hp, step_of_nextAgent hp, fun hn => ?_⟩,
    fun s => ⟨fun a ts => nextAgent_cons, fun ht => ⟨nextAgent_nil_busy ht, fun hi hne => ?_, fun hi he => ?_⟩⟩,
    fun s i w hp hd => ?_⟩
  · rw [step_of_nextAgent hp hn]
    exact engineMove_of_decode (s := popTurn s) hb hd
  · rw [step_of_nextAgent hp hn, popTurn_eq_self (turns_eq_nil_of_nextAgent_none hn)]
    rfl
  · simp [nextAgent_nil_idle ht hi, hne]
  · simp [nextAgent_nil_idle ht hi, he]
  · rw [withFetchWord_toNat, step_of_nextAgent (s := afterSubmission w s) hp rfl]
    exact engineMove_of_decode (s := acceptCmd w s) rfl hd

/-- Settles O6: either way the engine is next. -/
theorem acceptedCommandCompletes : Obligations.AcceptedCommandCompletes := by
  intro s ts hp hb
  constructor
  · rw [step_of_nextAgent (s := { s with turns := .engine :: ts }) hp rfl]
    exact engineMove_completes (s := { s with turns := ts }) hb
  · rw [step_of_nextAgent (s := { s with turns := [] }) hp (nextAgent_nil_busy rfl hb)]
    obtain ⟨t, ht, hi, hd, -⟩ := engineMove_completes (s := { s with turns := [] }) hb
    exact ⟨t, ht, hi, hd⟩

end Sys2Proof.Machine
end

section
/-! STATUS bit by bit: what it shows (10_state.md R26), what a write to it clears (R27), and the interrupt (R39). -/

namespace Sys2Proof.Machine

/-! ### What STATUS shows -/

theorem extractLsb'_append_ofBool {n : Nat} (x : BitVec n) (b : Bool) (i len : Nat) :
    (x ++ BitVec.ofBool b).extractLsb' (i + 1) len = x.extractLsb' i len :=
  BitVec.extractLsb'_append_eq_of_le (Nat.le_add_left 1 i)

theorem statusWord_getLsbD_zero (s : State) : s.statusWord.getLsbD 0 = s.isBusy := BitVec.getLsbD_concat_zero

theorem statusWord_getLsbD_one (s : State) : s.statusWord.getLsbD 1 = s.status.done :=
  BitVec.getLsbD_concat_succ.trans BitVec.getLsbD_concat_zero

theorem statusWord_getLsbD_two (s : State) : s.statusWord.getLsbD 2 = s.status.err :=
  BitVec.getLsbD_concat_succ.trans (BitVec.getLsbD_concat_succ.trans BitVec.getLsbD_concat_zero)

theorem statusWord_getLsbD_three (s : State) : s.statusWord.getLsbD 3 = s.status.ovr :=
  BitVec.getLsbD_concat_succ.trans
    (BitVec.getLsbD_concat_succ.trans (BitVec.getLsbD_concat_succ.trans BitVec.getLsbD_concat_zero))

/-- Above the four single bits stand ERRCODE and the reserved bits. -/
theorem statusWord_extractLsb'_high (s : State) (i len : Nat) :
    s.statusWord.extractLsb' (i + 4) len = ((0 : BitVec 24) ++ s.status.errCode).extractLsb' i len :=
  calc s.statusWord.extractLsb' (i + 4) len
      = ((0 : BitVec 24) ++ s.status.errCode ++ BitVec.ofBool s.status.ovr ++ BitVec.ofBool s.status.err ++
          BitVec.ofBool s.status.done).extractLsb' (i + 3) len := extractLsb'_append_ofBool ..
    _ = ((0 : BitVec 24) ++ s.status.errCode ++ BitVec.ofBool s.status.ovr ++
          BitVec.ofBool s.status.err).extractLsb' (i + 2) len := extractLsb'_append_ofBool ..
    _ = ((0 : BitVec 24) ++ s.status.errCode ++ BitVec.ofBool s.status.ovr).extractLsb' (i + 1) len :=
        extractLsb'_append_ofBool ..
    _ = ((0 : BitVec 24) ++ s.status.errCode).extractLsb' i len := extractLsb'_append_ofBool ..

/-- Settles O40: the fields stand in the order in which `statusWord` joins them. -/
theorem statusShowsItsFields : Obligations.StatusShowsItsFields := fun s =>
  ⟨statusWord_getLsbD_zero s, statusWord_getLsbD_one s, statusWord_getLsbD_two s, statusWord_getLsbD_three s,
    (statusWord_extractLsb'_high s 0 4).trans BitVec.extractLsb'_append_eq_right,
    (statusWord_extractLsb'_high s 4 24).trans BitVec.extractLsb'_append_eq_left⟩

/-! ### What a STATUS write clears -/

theorem and_not_eq_ite (a b : Bool) : (a && !b) = if b then false else a := by cases b <;> simp

theorem Status.writeOneToClear_eq (w : Word) (st : Status) :
    st.writeOneToClear w =
      { done := if w.getLsbD 1 then false else st.done
        err := if w.getLsbD 2 then false else st.err
        errCode := if w.getLsbD 2 then 0 else st.errCode
        ovr := if w.getLsbD 3 then false else st.ovr } := by
  simp only [Status.writeOneToClear, and_not_eq_ite]

/-- A joined word sets no new bit when neither part does. -/
theorem append_andNot_eq_zero {m n : Nat} {a c : BitVec m} {b d : BitVec n} (hhi : a &&& ~~~c = 0)
    (hlo : b &&& ~~~d = 0) : (a ++ b) &&& ~~~(c ++ d) = 0 := by
  rw [BitVec.not_append, BitVec.and_append, hhi, hlo]
  exact BitVec.zero_append_zero

theorem ofBool_clear_andNot (a b : Bool) : BitVec.ofBool (a && !b) &&& ~~~BitVec.ofBool a = 0 := by
  cases a <;> cases b <;> rfl

theorem errCode_clear_andNot (b : Bool) (c : BitVec 4) : (if b then 0 else c) &&& ~~~c = 0 := by
  cases b <;> simp

/-- No bit of STATUS goes from 0 to 1 at a write (R27): each field loses bits or stays. -/
theorem statusWord_acknowledge_andNot (w : Word) (s : State) :
    (acknowledge w s).statusWord &&& ~~~s.statusWord = 0 := by
  have hbusy : BitVec.ofBool (acknowledge w s).isBusy &&& ~~~BitVec.ofBool s.isBusy = 0 := BitVec.and_not_self _
  have hcode := errCode_clear_andNot (w.getLsbD 2) s.status.errCode
  have hovr := ofBool_clear_andNot s.status.ovr (w.getLsbD 3)
  have herr := ofBool_clear_andNot s.status.err (w.getLsbD 2)
  have hdone := ofBool_clear_andNot s.status.done (w.getLsbD 1)
  have hreserved : (0 : BitVec 24) &&& ~~~0 = 0 := rfl
  exact append_andNot_eq_zero (append_andNot_eq_zero (append_andNot_eq_zero (append_andNot_eq_zero
    (append_andNot_eq_zero hreserved hcode) hovr) herr) hdone) hbusy

/-- Settles O41: field by field a 1 in the word clears, a 0 keeps. -/
theorem statusWriteOnlyClears : Obligations.StatusWriteOnlyClears := by
  intro s w
  refine ⟨?_, statusWord_acknowledge_andNot w s⟩
  show ({ s with status := s.status.writeOneToClear w } : State) = _
  rw [Status.writeOneToClear_eq]

/-! ### The CMD write -/

theorem write_cmd_of_idle {s : State} (hi : s.seq = .idle) (v : Word) : Reg.write .cmd v s = acceptCmd v s := by
  simp [Reg.write, submitCmd, (isBusy_eq_false_iff s).2 hi]

theorem write_cmd_of_busy {s : State} (hb : s.seq = .busy) (v : Word) : Reg.write .cmd v s = dropCmd s := by
  simp [Reg.write, submitCmd, (isBusy_iff s).2 hb]

/-- Settles O38: the write is the acceptance, whose latch is made of what the operand registers hold. -/
theorem acceptanceLatchesTheOperands : Obligations.AcceptanceLatchesTheOperands := by
  intro s v hi
  rw [write_cmd_of_idle hi]
  exact ⟨rfl, rfl, rfl, rfl, rfl, rfl, statusWord_getLsbD_zero _⟩

/-- Settles O39: the drop is that update of the state. -/
theorem busyCmdWriteIsDropped : Obligations.BusyCmdWriteIsDropped := fun _ v hb => write_cmd_of_busy hb v

/-! ### The interrupt -/

/-- Settles O45: each write decides one of the two factors of `irq`. -/
theorem interruptFollowsDoneAndEnable : Obligations.InterruptFollowsDoneAndEnable := by
  intro s
  refine ⟨by simp [State.irq], fun v => rfl, fun v hv => ⟨?_, rfl⟩, fun v hv => ?_, fun v hv => ?_, fun v hi => ?_⟩
  · show (s.status.done && v.getLsbD 0) = false
    rw [hv, Bool.and_false]
  · show (s.status.done && v.getLsbD 0) = s.status.done
    rw [hv, Bool.and_true]
  · show (s.status.done && !v.getLsbD 1 && s.irqEn) = false
    rw [hv, Bool.not_true, Bool.and_false, Bool.false_and]
  · rw [write_cmd_of_idle hi]
    rfl

end Sys2Proof.Machine
end

section
/-! The register window (10_state.md R21 to R24, R29 to R33): where each register is, what an access does there, and what a
write to an operand register leaves. -/

namespace Sys2Proof.Machine
open Sys2Proof.Claims

/-! ### Offsets -/

@[simp] theorem Reg.atOffset_offset (r : Reg) : Reg.atOffset r.offset = some r := by cases r <;> rfl

theorem Reg.offset_lt (r : Reg) : r.offset < 0x44 := by cases r <;> decide

theorem Reg.atOffset_reserved {off : Nat} (h : 0x44 ≤ off) : Reg.atOffset off = none :=
  List.find?_eq_none.2 fun r _ he => by
    have hlt := r.offset_lt
    have heq : r.offset = off := beq_iff_eq.1 he
    omega

@[simp] theorem windowRead_offset (r : Reg) (s : State) : windowRead r.offset s = r.read s := by simp [windowRead]

@[simp] theorem windowWrite_offset (r : Reg) (v : Word) (s : State) : windowWrite r.offset v s = r.write v s := by
  simp [windowWrite]

theorem windowRead_reserved {off : Nat} (h : 0x44 ≤ off) (s : State) : windowRead off s = 0 := by
  simp [windowRead, Reg.atOffset_reserved h]

theorem windowWrite_reserved {off : Nat} (h : 0x44 ≤ off) (v : Word) (s : State) : windowWrite off v s = s := by
  simp [windowWrite, Reg.atOffset_reserved h]

/-! ### Accesses -/

theorem runStmt_write_of_admitted {s : State} {addr width off : Nat} (e : Expr)
    (h : admitAccess s.regBase addr width = .ok off) :
    runStmt (.write addr width e) s = .next (windowWrite off (e.eval s.host) s) := by simp [runStmt, busWrite, h]

theorem runStmt_read_of_admitted {s : State} {addr width off : Nat} (x : Var)
    (h : admitAccess s.regBase addr width = .ok off) :
    runStmt (.read addr width x) s = .next (setHostVar x (windowRead off s) s) := by simp [runStmt, busRead, h]

theorem runStmt_poll_of_admitted {s : State} {addr off : Nat} (x : Var) (bit : Nat)
    (h : admitAccess s.regBase addr 32 = .ok off) :
    runStmt (.pollWhileSet addr x bit) s = .next (pollAgain addr x bit (windowRead off s) s) := by
  simp [runStmt, busRead, h]

/-- An access that R22 does not list is turned away for some reason. -/
theorem admitAccess_error {base addr width : Nat}
    (h : ¬∃ off, width = 32 ∧ addr = base + off ∧ off < 0x100 ∧ off % 4 = 0) :
    ∃ why, admitAccess base addr width = .error why := by
  cases ha : admitAccess base addr width with
  | error why => exact ⟨why, rfl⟩
  | ok off => exact absurd ⟨off, (admitAccess_ok_iff ..).1 ha⟩ h

theorem write_readOnly {r : Reg} (hr : r ∈ readOnlyRegs) (v : Word) (s : State) : r.write v s = s := by
  simp only [readOnlyRegs, List.mem_cons, List.not_mem_nil, or_false] at hr
  rcases hr with rfl | rfl | rfl | rfl | rfl | rfl <;> rfl

/-- Settles O42: the admitted accesses are those of `admitAccess_ok_iff`, and a register answers at its own offset. -/
theorem windowAccessRules : Obligations.WindowAccessRules := by
  refine ⟨fun s addr width e x => ⟨fun off h => ?_, fun h => ?_⟩,
    fun s off v h => ⟨windowRead_reserved h s, windowWrite_reserved h v s⟩, fun s r v hr => ?_,
    fun s => windowRead_offset .cmd s, fun s v => ?_, fun s r v => ⟨windowRead_offset r s, windowWrite_offset r v s⟩,
    fun s => ⟨rfl, rfl, rfl, rfl⟩, fun r => (mem_registerMap_iff r.offset r).2 rfl, rfl, fun s v x hx => ?_⟩
  · have ha : admitAccess s.regBase addr width = .ok off := (admitAccess_ok_iff ..).2 h
    exact ⟨runStmt_write_of_admitted e ha, runStmt_read_of_admitted x ha⟩
  · obtain ⟨why, ha⟩ := admitAccess_error h
    exact ⟨⟨why, by simp [runStmt, busWrite, ha]⟩, ⟨why, by simp [runStmt, busRead, ha]⟩⟩
  · rw [windowWrite_offset, write_readOnly hr]
  · show windowRead (Reg.offset .irqEn) (windowWrite (Reg.offset .irqEn) v s) = v &&& 1#32
    rw [windowRead_offset, windowWrite_offset, BitVec.and_one_eq_setWidth_ofBool_getLsbD]
    rfl
  · rw [(mem_registerMap_iff x.1 x.2).1 hx]
    exact ⟨windowRead_offset x.2 s, windowWrite_offset x.2 v s⟩

/-! ### Operand registers -/

theorem read_write_operand_self {r : Reg} (hr : r ∈ operandRegs) (v : Word) (s : State) : r.read (r.write v s) = v := by
  rcases operandReg_cases hr with rfl | rfl | rfl | rfl | rfl | rfl | rfl | rfl <;> rfl

theorem statusWord_with_regs (g : Regs) (s : State) : ({ s with regs := g } : State).statusWord = s.statusWord := rfl

theorem read_write_operand_ne {r r' : Reg} (hr : r ∈ operandRegs) (hne : r' ≠ r) (v : Word) (s : State) :
    r'.read (r.write v s) = r'.read s := by
  rcases operandReg_cases hr with rfl | rfl | rfl | rfl | rfl | rfl | rfl | rfl <;>
    cases r' <;> simp only [Reg.read, Reg.write, statusWord_with_regs, ne_eq, not_true_eq_false] at hne ⊢

theorem write_operand_frame {r : Reg} (hr : r ∈ operandRegs) (v : Word) (s : State) :
    { r.write v s with regs := s.regs } = s := by
  rcases operandReg_cases hr with rfl | rfl | rfl | rfl | rfl | rfl | rfl | rfl <;> rfl

/-- Settles O43, register by register. -/
theorem operandRegistersReadBack : Obligations.OperandRegistersReadBack := fun s _ v hr =>
  ⟨read_write_operand_self hr v s, fun _ hne => read_write_operand_ne hr hne v s, write_operand_frame hr v s⟩

/-! ### PARAM -/

theorem Params.word_threshold (p : Params) : (Params.word p).extractLsb' 0 16 = BitVec.ofNat 16 p.threshold :=
  BitVec.extractLsb'_append_eq_right

theorem Params.word_maxBlockLen (p : Params) : (Params.word p).extractLsb' 16 15 = BitVec.ofNat 15 p.maxBlockLen :=
  (BitVec.extractLsb'_append_eq_of_le (le_refl 16)).trans BitVec.extractLsb'_append_eq_right

theorem Params.word_alignLeading (p : Params) : (Params.word p).getLsbD 31 = p.alignLeading :=
  calc (Params.word p).getLsbD 31
      = (BitVec.ofBool p.alignLeading ++ BitVec.ofNat 15 p.maxBlockLen).getLsbD 15 :=
        BitVec.getLsbD_append.trans (if_neg (by decide))
    _ = (BitVec.ofBool p.alignLeading).getLsbD 0 := BitVec.getLsbD_append.trans (if_neg (by decide))
    _ = p.alignLeading := by simp

theorem read_param_congr {s t : State} (h : t.params = s.params) : Reg.read .param t = Reg.read .param s :=
  congrArg Params.word h

/-- Settles O44: each legal parameter fits its field, and no step changes the parameters. -/
theorem identityAndParameters : Obligations.IdentityAndParameters := by
  refine ⟨fun s v => ⟨rfl, rfl, rfl, rfl, rfl⟩, fun s hp => ?_, by decide, fun s t hs => ⟨rfl, ?_⟩⟩
  · obtain ⟨-, hthr, -, hmax⟩ := (Params.legal_iff _).1 hp
    refine ⟨?_, ?_, Params.word_alignLeading s.params⟩
    · show ((Params.word s.params).extractLsb' 0 16).toNat = _
      rw [Params.word_threshold, BitVec.toNat_ofNat, Nat.mod_eq_of_lt (by omega)]
    · show ((Params.word s.params).extractLsb' 16 15).toNat = _
      rw [Params.word_maxBlockLen, BitVec.toNat_ofNat, Nat.mod_eq_of_lt (by omega)]
  · exact read_param_congr (onlyTheHostWritesTheDataSpace s t hs).1

end Sys2Proof.Machine
end

section
/-! While IDLE the latch and the working registers have no effect (10_state.md R40, R42, R47): every agent's move answers
states that differ in them alone, when it starts from such states. -/

namespace Sys2Proof.Machine

/-- `s` with the latch `l` and the working registers `w`. -/
def withLatch (l : Latch) (w : Working) (s : State) : State := { s with latch := l, work := w }

/-- `t` and `t'` differ in the latch and the working registers alone. -/
def LatchApart (t t' : State) : Prop := withLatch t.latch t.work t' = t

theorem windowRead_withLatch (off : Nat) (l : Latch) (w : Working) (s : State) :
    windowRead off (withLatch l w s) = windowRead off s := rfl

/-- An acceptance writes the whole latch; every other write leaves it. -/
theorem windowWrite_latchApart (off : Nat) (v : Word) (l : Latch) (w : Working) {s : State} (hi : s.seq = .idle) :
    LatchApart (windowWrite off v s) (windowWrite off v (withLatch l w s)) := by
  unfold windowWrite
  cases Reg.atOffset off with
  | none => rfl
  | some r =>
    cases r with
    | cmd =>
      show LatchApart (Reg.write .cmd v s) (Reg.write .cmd v (withLatch l w s))
      rw [write_cmd_of_idle hi, write_cmd_of_idle (s := withLatch l w s) hi]
      rfl
    | _ => rfl

theorem runStmt_latchApart {st : HostStmt} {s t : State} (hi : s.seq = .idle) (h : runStmt st s = .next t) (l : Latch)
    (w : Working) : ∃ t', runStmt st (withLatch l w s) = .next t' ∧ LatchApart t t' := by
  cases st with
  | write addr width e =>
    obtain ⟨off, ho, rfl⟩ := busWrite_next h
    exact ⟨_, runStmt_write_of_admitted (s := withLatch l w s) e ho, windowWrite_latchApart off _ l w hi⟩
  | read addr width x =>
    obtain ⟨off, ho, rfl⟩ := busRead_next h
    exact ⟨_, runStmt_read_of_admitted (s := withLatch l w s) x ho, rfl⟩
  | assign x e =>
    cases h
    exact ⟨_, rfl, rfl⟩
  | pollWhileSet addr x bit =>
    obtain ⟨off, ho, rfl⟩ := busRead_next h
    refine ⟨_, runStmt_poll_of_admitted (s := withLatch l w s) x bit ho, ?_⟩
    rw [windowRead_withLatch]
    unfold pollAgain
    split <;> rfl
  | waitIrq =>
    cases h
    refine ⟨_, rfl, ?_⟩
    show LatchApart (if s.irq then s else _) (if s.irq then _ else _)
    split <;> rfl
  | store a b =>
    rcases hostStore_cases a b s with ⟨ha, hs⟩ | ⟨-, hs⟩
    · cases hs.symm.trans h
      exact ⟨_, if_pos ha, by simp [LatchApart, withLatch, State.isBusy, hi]⟩
    · cases hs.symm.trans h
  | remap rs =>
    cases h
    exact ⟨_, rfl, by simp [LatchApart, withLatch, hostRemap, State.isBusy, hi]⟩

theorem agentMove_latchApart {a : Option Agent} {s t : State} (hi : s.seq = .idle) (h : agentMove a s = .next t)
    (l : Latch) (w : Working) : ∃ t', agentMove a (withLatch l w s) = .next t' ∧ LatchApart t t' := by
  cases a with
  | none =>
    cases h
    exact ⟨_, rfl, rfl⟩
  | some a =>
    cases a with
    | reset =>
      cases h
      exact ⟨_, rfl, rfl⟩
    | engine =>
      cases (engineMove_of_idle hi).symm.trans h
      exact ⟨_, engineMove_of_idle (s := withLatch l w s) hi, rfl⟩
    | host =>
      replace h : hostMove s = .next t := h
      rcases hostMove_cases s with ⟨hp, he⟩ | ⟨st, rest, hp, he⟩
      · cases he.symm.trans h
        exact ⟨_, hostMove_of_nil (s := withLatch l w s) hp, rfl⟩
      · obtain ⟨t', ht', hap⟩ := runStmt_latchApart (s := popStmt s) hi (he.symm.trans h) l w
        exact ⟨t', (hostMove_of_cons (s := withLatch l w s) hp).trans ht', hap⟩

/-- Settles O55: the next agent does not depend on the latch, and its move keeps the states apart in it alone. -/
theorem idleLatchIsUnobservable : Obligations.IdleLatchIsUnobservable := by
  intro s t l w hi hs
  obtain ⟨hp, -⟩ := step_cases hs
  rw [step_of_legal hp] at hs
  rw [step_of_legal (s := { s with latch := l, work := w }) hp]
  exact agentMove_latchApart (s := popTurn s) hi hs l w

end Sys2Proof.Machine
end

section
/-! Data in canonical form is decided by what it reads as (20_memory.md R60, log entry 5), and a read folds its bytes one by
one (R62). -/

namespace Sys2Proof.Machine

/-- The entries of a canonical list are the keys that read as something else than an unlisted one does. -/
theorem Cells.mem_iff_get {w : Nat} {d : BitVec w} {l : List (Nat × BitVec w)} (h : Cells.wf d l) (a : Nat)
    (v : BitVec w) : (a, v) ∈ l ↔ Cells.get d l a = v ∧ v ≠ d := by
  induction l with
  | nil => exact ⟨nofun, fun ⟨hg, hv⟩ => absurd hg.symm hv⟩
  | cons x l ih =>
    obtain ⟨k, u⟩ := x
    obtain ⟨hp, hd⟩ := h
    obtain ⟨hk, hl⟩ := List.pairwise_cons.1 hp
    have ih := ih ⟨hl, fun y hy => hd y (List.mem_cons_of_mem _ hy)⟩
    rw [List.mem_cons, Cells.get]
    by_cases hak : a = k
    · subst hak
      have hu : u ≠ d := hd _ (List.mem_cons_self ..)
      have hnot : (a, v) ∉ l := fun hm => lt_irrefl a (hk _ hm)
      rw [if_pos rfl]
      constructor
      · rintro (hx | hm)
        · obtain ⟨-, rfl⟩ := Prod.mk.inj hx
          exact ⟨rfl, hu⟩
        · exact absurd hm hnot
      · rintro ⟨rfl, -⟩
        exact .inl rfl
    · simp [hak, ih]

/-- Canonical lists that read alike have the same entries, in the same order. -/
theorem Cells.eq_of_get_eq {w : Nat} {d : BitVec w} {l l' : List (Nat × BitVec w)} (h : Cells.wf d l)
    (h' : Cells.wf d l') (hget : ∀ a, Cells.get d l a = Cells.get d l' a) : l = l' := by
  have : Std.Irrefl fun x y : Nat × BitVec w => x.1 < y.1 := ⟨fun x => lt_irrefl x.1⟩
  have : Std.Antisymm fun x y : Nat × BitVec w => x.1 < y.1 := ⟨fun _ _ hxy hyx => absurd hyx hxy.not_gt⟩
  refine h.1.eq_of_mem_iff h'.1 fun ⟨a, v⟩ => ?_
  rw [mem_iff_get h, mem_iff_get h', hget]

/-- Settles O57: the bytes of the two data spaces are canonical lists that read alike. -/
theorem canonicalMemoriesAreEqual : Obligations.CanonicalMemoriesAreEqual :=
  fun _ _ ⟨hd, _⟩ ⟨he, _⟩ hread => Cells.eq_of_get_eq hd he hread

theorem bytesAt_eq_map_range (d : DataSpace) (a k : Nat) :
    d.bytesAt a k = (List.range k).map fun j => d.byteAt (a + j) := by
  rw [DataSpace.bytesAt, List.range'_eq_map_range, List.map_map]
  rfl

/-- Settles O22: the bytes of the fold are those of the range that was read. -/
theorem foldingAReadFoldsItsBytes : Obligations.FoldingAReadFoldsItsBytes := by
  intro d a k c v h
  rw [← bytesAt_eq_map_range]
  exact (memRead_eq_ok h).2 c

end Sys2Proof.Machine
end

section
/-! The test for a changed memory map is exact (20_memory.md R72, log entry 9): what a map says of an address can differ from
what it says of the address before it only where a region begins or ends. -/

namespace Sys2Proof.Machine

theorem mem_regionEnds_iff (rs : List Region) (x : Nat) :
    x ∈ regionEnds rs ↔ ∃ r ∈ rs, x = r.base ∨ x = r.base + r.size := by
  simp [regionEnds]

theorem region_contains_succ {r : Region} {x : Nat} (hbase : x + 1 ≠ r.base) (hend : x + 1 ≠ r.base + r.size) :
    r.contains (x + 1) = r.contains x := by
  rw [Bool.eq_iff_iff, region_contains_iff, region_contains_iff]
  omega

/-- A test that asks of some region whether it holds the address answers the same for two addresses with no end between
them. -/
theorem any_contains_succ {rs : List Region} {x : Nat} (h : x + 1 ∉ regionEnds rs) (q : Region → Bool) :
    (rs.any fun r => q r && r.contains (x + 1)) = rs.any fun r => q r && r.contains x := by
  have hsame : ∀ r ∈ rs, r.contains (x + 1) = r.contains x := fun r hr =>
    region_contains_succ (fun hb => h ((mem_regionEnds_iff ..).2 ⟨r, hr, .inl hb⟩))
      fun he => h ((mem_regionEnds_iff ..).2 ⟨r, hr, .inr he⟩)
  rw [Bool.eq_iff_iff, List.any_eq_true, List.any_eq_true]
  exact exists_congr fun r => and_congr_right fun hr => by rw [hsame r hr]

theorem readable_succ {d : DataSpace} {x : Nat} (h : x + 1 ∉ regionEnds d.regions) :
    d.readable (x + 1) = d.readable x :=
  any_contains_succ h fun _ => true

theorem device_succ {d : DataSpace} {x : Nat} (h : x + 1 ∉ regionEnds d.regions) : d.device (x + 1) = d.device x :=
  any_contains_succ h fun r => decide (r.kind ≠ .plain)

/-- What the test looks at: the first address of the range and the region ends in it. -/
theorem sameMapOn_iff_ends (d e : DataSpace) (a m : Nat) :
    d.sameMapOn e a m = true ↔
      ∀ x, x = a ∨ x ∈ regionEnds d.regions ∨ x ∈ regionEnds e.regions → a ≤ x → x < a + m →
        d.readable x = e.readable x ∧ d.device x = e.device x := by
  simp only [DataSpace.sameMapOn, List.all_eq_true, List.mem_cons, List.mem_append, Bool.or_eq_true, Bool.not_eq_true',
    Bool.and_eq_false_iff, Bool.and_eq_true, decide_eq_false_iff_not, beq_iff_eq]
  refine forall_congr' fun x => imp_congr_right fun _ => ?_
  rw [or_iff_not_imp_left, not_or, not_not, not_not, and_imp]

/-- Settles O58: by induction on the address, from the first one of the range; the test looks wherever an answer can
change. -/
theorem mapChangesAreSeenExactly : Obligations.MapChangesAreSeenExactly := by
  intro d e a m
  rw [sameMapOn_iff_ends]
  refine ⟨fun h x ha => ?_, fun h x _ => h x⟩
  induction x, ha using Nat.le_induction with
  | base => exact h a (.inl rfl) le_rfl
  | succ x ha ih =>
    intro hx
    by_cases hends : x + 1 ∈ regionEnds d.regions ∨ x + 1 ∈ regionEnds e.regions
    · exact h (x + 1) (.inr hends) (by omega) hx
    · obtain ⟨hd, he⟩ := not_or.1 hends
      rw [readable_succ hd, readable_succ he, device_succ hd, device_succ he]
      exact ih (by omega)

end Sys2Proof.Machine
end

section
/-! What a store and a change of the map do, and the record of a broken buffer (20_memory.md R60, R72). -/

namespace Sys2Proof.Machine
open Sys2Proof.Claims

/-- The test that `hostRemap` makes says exactly that the new map breaks the running command's buffer. -/
theorem remapBreaksBuffer_iff (s : State) (rs : List Region) :
    remapBreaksBuffer s rs ↔ (s.isBusy &&
      !s.space.sameMapOn { s.space with regions := rs } s.latch.addr.toNat s.latch.len.toNat) = true := by
  rw [Bool.and_eq_true, Bool.not_eq_true', Bool.eq_false_iff, ne_eq, mapChangesAreSeenExactly, isBusy_iff]
  constructor
  · rintro ⟨a, ⟨hb, hlo, hhi⟩, hne⟩
    refine ⟨hb, fun hsame => ?_⟩
    obtain ⟨hr, hd⟩ := hsame a hlo hhi
    exact hne.elim (fun h => h hr.symm) fun h => h hd.symm
  · rintro ⟨hb, hdiff⟩
    by_contra hno
    refine hdiff fun x hlo hhi => ?_
    by_contra hne
    exact hno ⟨x, ⟨hb, hlo, hhi⟩, (not_and_or.1 hne).imp Ne.symm Ne.symm⟩

/-- The mark after a change of the map. -/
theorem hostRemap_disturbed_iff (rs : List Region) (s : State) :
    (hostRemap rs s).disturbed = true ↔ s.disturbed = true ∨ remapBreaksBuffer s rs := by
  rw [remapBreaksBuffer_iff, hostRemap_disturbed, Bool.or_eq_true]

/-- The mark after a store. -/
theorem store_mark_iff (s : State) (a : Nat) :
    (s.disturbed || (s.isBusy && s.latch.covers a)) = true ↔ s.disturbed = true ∨ inRunningBuffer s a := by
  rw [inRunningBuffer_iff, Bool.or_eq_true]

/-- Settles O59: the two updates of the state, read field by field. -/
theorem storesAndRemapsTakeEffect : Obligations.StoresAndRemapsTakeEffect := by
  refine ⟨fun s a b hwf ha => ?_, fun s a b ha => if_neg ha.not_gt, fun s rs => ?_⟩
  · exact ⟨_, if_pos ha, byteAt_writeByte_self s.space a b hwf, fun x hx => byteAt_writeByte_ne s.space a x b hx, rfl,
      store_mark_iff s a, rfl⟩
  · exact ⟨hostRemap rs s, rfl, rfl, hostRemap_disturbed_iff rs s, rfl⟩

/-! ### The mark along a step -/

/-- While nothing changes the mark, it stays as long as the command runs. -/
theorem State.Inv.disturbed_iff {s : State} (h : s.Inv) : s.disturbed = true ↔ s.disturbed = true ∧ s.seq = .busy :=
  ⟨fun hd => ⟨hd, h.disturbed_busy hd⟩, And.left⟩

/-- A completion and a reset end the command and clear the mark. -/
theorem mark_cleared {s t : State} (hd : t.disturbed = false) (hq : t.seq = .idle) :
    t.disturbed = true ↔ s.disturbed = true ∧ t.seq = .busy := by simp [hd, hq]

/-- A window write keeps the mark; an acceptance finds none and begins with none. -/
theorem windowWrite_disturbed_iff {s : State} (h : s.Inv) (off : Nat) (v : Word) :
    (windowWrite off v s).disturbed = true ↔ s.disturbed = true ∧ (windowWrite off v s).seq = .busy := by
  rcases windowWrite_cases off v s with hw | ⟨-, hw⟩ | ⟨-, hw⟩ | ⟨-, hw⟩ | ⟨r, hw, -⟩
  · rw [hw]
    exact h.disturbed_iff
  · rcases submitCmd_cases v s with ⟨-, hs⟩ | ⟨hi, hs⟩
    · rw [hw, hs]
      exact h.disturbed_iff
    · have hclear : s.disturbed = false := Bool.eq_false_iff.2 fun hd => nomatch hi.symm.trans (h.disturbed_busy hd)
      simp [hw, hs, hclear]
  · rw [hw]
    exact h.disturbed_iff
  · rw [hw]
    exact h.disturbed_iff
  · rw [hw]
    exact h.disturbed_iff

theorem engineMove_disturbed_iff {s t : State} (h : s.Inv) (hm : engineMove s = .next t) :
    t.disturbed = true ↔ s.disturbed = true ∧ t.seq = .busy := by
  rcases engineMove_cases s with ⟨-, he⟩ | ⟨-, o, w, k, he⟩
  · cases he.symm.trans hm
    exact h.disturbed_iff
  · cases he.symm.trans hm
    exact mark_cleared (complete_disturbed ..) (complete_seq ..)

/-- The statement at the head of the program stores into the running command's buffer or changes the map on it (R72). -/
def State.BreaksBufferNext (s : State) : Prop :=
  ∃ rest, (∃ a b, s.host.program = .store a b :: rest ∧ inRunningBuffer s a) ∨
    ∃ rs, s.host.program = .remap rs :: rest ∧ remapBreaksBuffer s rs

theorem not_breaksBufferNext_of_nil {s : State} (h : s.host.program = []) : ¬s.BreaksBufferNext := by
  simp [State.BreaksBufferNext, h]

/-- A head statement that neither stores nor changes the map breaks no buffer. -/
theorem not_breaksBufferNext_of_cons {s : State} {st : HostStmt} {rest : List HostStmt} (h : s.host.program = st :: rest)
    (hstore : ∀ a b, st ≠ .store a b) (hremap : ∀ rs, st ≠ .remap rs) : ¬s.BreaksBufferNext := by
  rintro ⟨rest', ⟨a, b, hp, -⟩ | ⟨rs, hp, -⟩⟩
  · exact hstore a b (List.cons.inj (h.symm.trans hp)).1
  · exact hremap rs (List.cons.inj (h.symm.trans hp)).1

theorem breaksBufferNext_store_iff {s : State} {a : Nat} {b : Byte} {rest : List HostStmt}
    (h : s.host.program = .store a b :: rest) : s.BreaksBufferNext ↔ inRunningBuffer s a := by
  simp [State.BreaksBufferNext, h]

theorem breaksBufferNext_remap_iff {s : State} {rs : List Region} {rest : List HostStmt}
    (h : s.host.program = .remap rs :: rest) : s.BreaksBufferNext ↔ remapBreaksBuffer s rs := by
  simp [State.BreaksBufferNext, h]

/-- The mark after the host's move, statement by statement. -/
theorem hostMove_disturbed_iff {s t : State} (h : s.Inv) (hm : hostMove s = .next t) :
    t.disturbed = true ↔ (s.disturbed = true ∧ t.seq = .busy) ∨ s.BreaksBufferNext := by
  rcases hostMove_cases s with ⟨hp, he⟩ | ⟨st, rest, hp, he⟩
  · cases he.symm.trans hm
    rw [or_iff_left (not_breaksBufferNext_of_nil hp)]
    exact h.disturbed_iff
  · have hpop : (popStmt s).Inv := { h with }
    rcases runStmt_cases (he.symm.trans hm) with
      ⟨hh, rfl, -, hstore, hremap⟩ | ⟨addr, width, e, off, rfl, -, rfl⟩ | ⟨a, b, rfl, -, rfl⟩ | ⟨rs, rfl, rfl⟩
    · rw [or_iff_left (not_breaksBufferNext_of_cons hp hstore hremap)]
      exact h.disturbed_iff
    · rw [or_iff_left (not_breaksBufferNext_of_cons hp nofun nofun)]
      exact windowWrite_disturbed_iff hpop off _
    · rw [breaksBufferNext_store_iff hp]
      exact (store_mark_iff s a).trans (or_congr_left h.disturbed_iff)
    · rw [breaksBufferNext_remap_iff hp]
      exact (hostRemap_disturbed_iff rs s).trans (or_congr_left h.disturbed_iff)

/-- Settles O60: the agents one by one; only the host's statements set the mark. -/
theorem stabilityIsTrackedExactly : Obligations.StabilityIsTrackedExactly := by
  intro s t h hs
  have hpop : (popTurn s).Inv := { h with }
  obtain ⟨-, ⟨hn, rfl⟩ | ⟨hn, rfl⟩ | ⟨hn, hm⟩ | ⟨hn, hm⟩⟩ := step_cases hs
  · simpa [hn] using h.disturbed_iff
  · simp [hn]
  · simpa [hn] using engineMove_disturbed_iff hpop hm
  · exact (hostMove_disturbed_iff hpop hm).trans (or_congr_right (and_iff_right hn).symm)

end Sys2Proof.Machine
end

section
/-! A COMPUTE whose buffer was not stable (20_memory.md R72), and one over memory with read side effects (R68, R61). -/

namespace Sys2Proof.Machine
open Sys2Proof.Claims

theorem complete_ok_eq_completedWith (lo hi : Word) (s : State) : complete (.ok lo hi) s = completedWith lo hi s := rfl

theorem complete_readFault_eq_faultedAt (a : DWord) (s : State) :
    complete (.err (.readFault a)) s = faultedAt a s := rfl

/-- The draw: some `Ok(v, 0)`, or READ_FAULT at one of the accesses. -/
theorem drawOutcome_cases (ps : Params) (l : Latch) (k : Nat) :
    (∃ v, drawOutcome ps l k = .ok v 0) ∨
      ∃ x ∈ accessSeq ps l.addr.toNat l.len.toNat, drawOutcome ps l k = .err (.readFault (BitVec.ofNat 64 x.1)) := by
  rw [drawOutcome]
  split
  · next x hx =>
    split
    · exact .inr ⟨x, List.mem_of_getElem? hx, rfl⟩
    · exact .inl ⟨_, rfl⟩
  · exact .inl ⟨_, rfl⟩

theorem execCompute_of_disturbed {s : State} (hr : s.bufferInRange) (hd : s.disturbed = true) :
    execCompute s = .next (complete (drawOutcome s.params s.latch s.draws) (tookDraw s)) := by
  rw [execCompute, if_neg hr.not_gt, if_pos hd]

/-- Settles O33: the two outcomes of the draw, each completed. -/
theorem unstableBufferIsADraw : Obligations.UnstableBufferIsADraw := by
  intro s hd hr
  have he : exec .compute s = _ := execCompute_of_disturbed hr hd
  rcases drawOutcome_cases s.params s.latch s.draws with ⟨v, ho⟩ | ⟨x, hx, ho⟩
  · rw [ho, complete_ok_eq_completedWith] at he
    exact .inl ⟨v, he⟩
  · rw [ho, complete_readFault_eq_faultedAt] at he
    exact .inr ⟨x, hx, he⟩

/-- Settles O34: no read faults, so the sequence comes to its end, and the device makes RESULT_LO a free value. -/
theorem deviceBufferCompletes : Obligations.DeviceBufferCompletes := by
  intro s hp hd hr hread ⟨a, hcov, hdev⟩
  have hreadable : s.space.readableRange s.latch.addr.toNat s.latch.len.toNat = true :=
    (readableRange_iff ..).2 fun x hlo hhi => hread x ((covers_iff ..).2 ⟨hlo, hhi⟩)
  have hdevice : s.space.deviceIn s.latch.addr.toNat s.latch.len.toNat = true :=
    have ⟨hlo, hhi⟩ := (covers_iff ..).1 hcov
    (deviceIn_iff ..).2 ⟨a, hlo, hhi, hdev⟩
  rcases execCompute_cases s with ⟨hr', -⟩ | ⟨-, ⟨hd', -⟩ | ⟨-, ⟨b, hc, -⟩ | ⟨w, -, ⟨-, h⟩ | ⟨hv, -⟩⟩⟩⟩
  · exact absurd hr hr'.not_ge
  · exact absurd (hd.symm.trans hd') nofun
  · exact absurd (hreadable.symm.trans (computeRun_error hp hc)) nofun
  · exact ⟨_, w, h⟩
  · exact absurd (hdevice.symm.trans hv) nofun

end Sys2Proof.Machine
end

section
/-! The widths and the alignment of COMPUTE's accesses (20_memory.md R63, R65). After leading alignment come 8-byte accesses,
all at the pointer's residue modulo 8, then the small ones of the tail. -/

namespace Sys2Proof.Machine

/-! ### Small accesses -/

/-- From `x` to `y` accesses were added whose widths are some of `ws`, in that order. -/
def Accesses.AddsWidths (ws : List Nat) (x y : Accesses) : Prop :=
  ∃ l, y.list = x.list ++ l ∧ (l.map Prod.snd).Sublist ws

theorem Accesses.AddsWidths.trans {ws vs : List Nat} {x y z : Accesses} (h : AddsWidths ws x y)
    (h' : AddsWidths vs y z) : AddsWidths (ws ++ vs) x z := by
  obtain ⟨l, hl, hw⟩ := h
  obtain ⟨l', hl', hw'⟩ := h'
  exact ⟨l ++ l', by rw [hl', hl, List.append_assoc], by rw [List.map_append]; exact hw.append hw'⟩

theorem Accesses.one_addsWidths (x : Accesses) (b : Bool) (k : Nat) : AddsWidths [k] x (x.one b k) := by
  cases b with
  | false => exact ⟨[], (List.append_nil _).symm, List.nil_sublist _⟩
  | true => exact ⟨[(x.p, k)], rfl, List.Sublist.refl _⟩

theorem Accesses.align_addsWidths (x : Accesses) : AddsWidths [1, 2, 4] x x.align :=
  ((one_addsWidths ..).trans (one_addsWidths ..)).trans (one_addsWidths ..)

/-! ### 8-byte accesses -/

/-- From `x` to `y` accesses of 8 bytes were added, each as far from a multiple of 8 as the pointer is. -/
structure Accesses.AddsEights (x y : Accesses) : Prop where
  list_eq : ∃ l, y.list = x.list ++ l ∧ ∀ z ∈ l, z.2 = 8 ∧ z.1 % 8 = x.p % 8
  p_mod : y.p % 8 = x.p % 8

theorem Accesses.AddsEights.refl (x : Accesses) : AddsEights x x := ⟨⟨[], (List.append_nil _).symm, nofun⟩, rfl⟩

theorem Accesses.AddsEights.trans {x y z : Accesses} (h : AddsEights x y) (h' : AddsEights y z) : AddsEights x z := by
  obtain ⟨⟨l, hl, h8⟩, hp⟩ := h
  obtain ⟨⟨l', hl', h8'⟩, hp'⟩ := h'
  refine ⟨⟨l ++ l', by rw [hl', hl, List.append_assoc], fun a ha => ?_⟩, hp'.trans hp⟩
  rcases List.mem_append.1 ha with ha | ha
  · exact h8 a ha
  · exact hp ▸ h8' a ha

theorem Accesses.one_addsEights (x : Accesses) : AddsEights x (x.one true 8) :=
  ⟨⟨[(x.p, 8)], rfl, by simp⟩, Nat.add_mod_right ..⟩

theorem Accesses.wide_addsEights (fuel : Nat) (x : Accesses) : AddsEights x (Accesses.wide fuel x) := by
  induction fuel generalizing x with
  | zero => exact .refl x
  | succ fuel ih =>
    rw [Accesses.wide]
    split
    · exact x.one_addsEights.trans (ih _)
    · exact .refl x

theorem mem_iterAccesses {p n : Nat} {z : Nat × Nat} (h : z ∈ iterAccesses p n) : z.2 = 8 ∧ z.1 % 8 = p % 8 := by
  obtain ⟨i, -, hz⟩ := List.mem_flatMap.1 h
  simp only [List.mem_cons, List.not_mem_nil, or_false] at hz
  rcases hz with rfl | rfl | rfl <;> exact ⟨rfl, Nat.add_mul_mod_self_left ..⟩

theorem Accesses.slices_addsEights (ps : Params) (fuel : Nat) (x : Accesses) :
    AddsEights x (Accesses.slices ps fuel x) := by
  induction fuel generalizing x with
  | zero => exact .refl x
  | succ fuel ih =>
    rw [Accesses.slices]
    split
    · refine AddsEights.trans ⟨⟨_, rfl, fun z hz => mem_iterAccesses hz⟩, ?_⟩ (ih _)
      show (x.p + bytesPerIter * blockLenFor ps x.r) % 8 = x.p % 8
      rw [bytesPerIter]
      omega
    · exact .refl x

/-! ### The parts of the sequence -/

/-- The access sequence as leading alignment leaves it (R147, R148). -/
def afterLeading (ps : Params) (a m : Nat) : Accesses :=
  if ps.threshold ≤ m ∧ ps.alignLeading = true then
    Accesses.align { list := [], p := a, r := m }
  else { list := [], p := a, r := m }

theorem sliced_addsEights (ps : Params) (a m : Nat) :
    Accesses.AddsEights (afterLeading ps a m) (Accesses.sliced ps { list := [], p := a, r := m }) := by
  rw [afterLeading, Accesses.sliced]
  by_cases ht : ps.threshold ≤ m
  · simpa [ht] using Accesses.slices_addsEights ps _ _
  · simpa [ht] using Accesses.AddsEights.refl _

/-- The sequence after its leading part: 8-byte accesses that keep the pointer's residue, then the end of the tail
(R155, R156). -/
theorem accessSeq_eq_append (ps : Params) (a m : Nat) :
    ∃ wide small, accessSeq ps a m = (afterLeading ps a m).list ++ wide ++ small ∧
      (∀ z ∈ wide, z.2 = 8 ∧ z.1 % 8 = (afterLeading ps a m).p % 8) ∧ (small.map Prod.snd).Sublist [4, 2, 1] := by
  obtain ⟨⟨wide, hwide, h8⟩, -⟩ := (sliced_addsEights ps a m).trans (Accesses.wide_addsEights _ _)
  obtain ⟨small, hsmall, hw⟩ := ((Accesses.one_addsWidths _ _ 4).trans (Accesses.one_addsWidths _ _ 2)).trans
    (Accesses.one_addsWidths _ _ 1)
  exact ⟨wide, small, hsmall.trans (congrArg (· ++ small) hwide), h8, hw⟩

theorem afterLeading_widths (ps : Params) (a m : Nat) :
    ((afterLeading ps a m).list.map Prod.snd).Sublist [1, 2, 4] := by
  rw [afterLeading]
  split
  · obtain ⟨l, hl, hw⟩ := Accesses.align_addsWidths { list := [], p := a, r := m }
    rwa [hl, List.nil_append]
  · exact List.nil_sublist _

/-- Settles O28: the three parts are leading alignment, the 8-byte accesses of both loops, and the end of the tail. -/
theorem accessWidthsComeInOrder : Obligations.AccessWidthsComeInOrder := by
  intro p a m _
  obtain ⟨wide, small, hseq, h8, hsmall⟩ := accessSeq_eq_append p a m
  refine ⟨_, wide, small, hseq, afterLeading_widths p a m, fun hno => ?_, fun z hz => (h8 z hz).1, hsmall⟩
  have hcond : ¬(p.threshold ≤ m ∧ p.alignLeading = true) := by
    rintro ⟨ht, hal⟩
    rcases hno with hlt | hfalse
    · exact absurd ht hlt.not_ge
    · exact absurd (hal.symm.trans hfalse) nofun
  rw [afterLeading, if_neg hcond]

/-! ### Alignment -/

/-- A line of leading alignment (R148) takes the pointer from a multiple of its width to a multiple of twice its width,
when the bytes last. -/
theorem Accesses.one_p_mod {b k : Nat} {x : Accesses} (hk : 2 ^ b = k) (hr : k ≤ x.r) (hp : x.p % k = 0) :
    (x.one (x.p.testBit b && decide (k ≤ x.r)) k).p % (k * 2) = 0 := by
  have hpos : 0 < k := hk ▸ Nat.two_pow_pos b
  obtain ⟨q, hq⟩ := Nat.dvd_of_mod_eq_zero hp
  have hbit : x.p.testBit b = decide (q % 2 = 1) := by
    rw [Nat.testBit_eq_decide_div_mod_eq, hk, hq, Nat.mul_div_cancel_left _ hpos]
  rw [Accesses.one, hbit, decide_eq_true hr, Bool.and_true]
  rcases Nat.mod_two_eq_zero_or_one q with h | h
  · simp [h, hq, Nat.mul_mod_mul_left]
  · have hsum : x.p + k = k * (q + 1) := by rw [hq]; ring
    have hq1 : (q + 1) % 2 = 0 := by omega
    simp [h, hsum, hq1, Nat.mul_mod_mul_left]

theorem Accesses.le_one_r {n k : Nat} {x : Accesses} (h : n + k ≤ x.r) (b : Bool) : n ≤ (x.one b k).r := by
  cases b with
  | false => exact le_of_add_le_left h
  | true => exact Nat.le_sub_of_add_le h

/-- Leading alignment aligns, when the seven bytes it may need are there. -/
theorem Accesses.align_p_mod {x : Accesses} (hr : 4 + 2 + 1 ≤ x.r) : x.align.p % 8 = 0 :=
  one_p_mod (b := 2) rfl (le_one_r (le_one_r hr _) _)
    (one_p_mod (b := 1) rfl (le_one_r (le_of_add_le_right hr) _)
      (one_p_mod (b := 0) rfl (le_of_add_le_right hr) (Nat.mod_one _)))

/-- Settles O29: leading alignment has its bytes, since THRESHOLD is at least 24, and its own accesses are no 8-byte ones. -/
theorem slicedPathReadsAreAligned : Obligations.SlicedPathReadsAreAligned := by
  intro p a m hp hal ht x hx h8
  obtain ⟨hthr, -⟩ := p.legal_iff.1 hp
  have haligned : (afterLeading p a m).p % 8 = 0 := by
    rw [afterLeading, if_pos ⟨ht, hal⟩]
    exact Accesses.align_p_mod (by show 7 ≤ m; omega)
  obtain ⟨wide, small, hseq, hwide, hsmall⟩ := accessSeq_eq_append p a m
  rw [hseq, List.mem_append, List.mem_append] at hx
  rcases hx with (hx | hx) | hx
  · have hw := (afterLeading_widths p a m).subset (List.mem_map_of_mem hx)
    simp [h8] at hw
  · exact (hwide x hx).2.trans haligned
  · have hw := hsmall.subset (List.mem_map_of_mem hx)
    simp [h8] at hw

end Sys2Proof.Machine
end

section
/-! The command word: its two fields, its one valid value per command, and how the disassembler prints it (30_encoding.md
R80 to R82, R85, R89). -/

namespace Sys2Proof
open Sys2Proof.Claims

/-! ### Fields -/

/-- A word is its two fields, `RSV` above `OP` (R80). -/
theorem rsvField_append_opField (w : Word) : rsvField w ++ opField w = w := BitVec.extractLsb'_append_extractLsb'

theorem zero_append_opField {w : Word} (hr : rsvField w = 0) : 0#28 ++ opField w = w :=
  calc 0#28 ++ opField w
      = rsvField w ++ opField w := congrArg (· ++ opField w) hr.symm
    _ = w := rsvField_append_opField w

/-- Where the reserved bits are 0, the decoder sees `OP` alone. -/
theorem decodeWord_eq_of_rsvField {w : Word} (hr : rsvField w = 0) : decodeWord w = decodeWord (0#28 ++ opField w) := by
  rw [zero_append_opField hr]

theorem decodeWord_of_rsvField_ne {w : Word} (hr : rsvField w ≠ 0) : decodeWord w = .error .reservedBits := if_pos hr

/-- The `OP` values without a command (R85). -/
theorem decodeWord_of_reservedOp {w : Word} (hr : rsvField w = 0) (ho : opField w = 0x0#4 ∨ 0x9#4 ≤ opField w) :
    decodeWord w = .error .reservedOp := by
  have reserved : ∀ op : BitVec 4, op = 0x0#4 ∨ 0x9#4 ≤ op → decodeWord (0#28 ++ op) = .error .reservedOp := by decide
  rw [decodeWord_eq_of_rsvField hr, reserved _ ho]

/-! ### The valid words -/

/-- Every command's word decodes to it (R82). -/
@[simp] theorem decodeWord_encode (i : Instr) : decodeWord (encode i) = .ok i := by cases i <;> rfl

/-- The decoder accepts no other word for a command. -/
theorem eq_encode_of_decodeWord {i : Instr} {w : Word} (h : decodeWord w = .ok i) : w = encode i := by
  have valid : ∀ op : BitVec 4, decodeWord (0#28 ++ op) = .ok i → 0#28 ++ op = encode i := by cases i <;> decide
  by_cases hr : rsvField w = 0
  · rw [decodeWord_eq_of_rsvField hr] at h
    rw [← valid _ h, zero_append_opField hr]
  · cases (decodeWord_of_rsvField_ne hr).symm.trans h

theorem decodeWord_ok_iff (i : Instr) (w : Word) : decodeWord w = .ok i ↔ w = encode i :=
  ⟨eq_encode_of_decodeWord, fun h => h ▸ decodeWord_encode i⟩

/-- The commands stand in the opcode table in the order of their words. -/
theorem encode_toNat_all : ∀ n : Fin 8, (encode Instr.all[n]).toNat = n + 1 := by decide

theorem exists_decodeWord_ok_iff (w : Word) : (∃ i, decodeWord w = .ok i) ↔ 1 ≤ w.toNat ∧ w.toNat ≤ 8 := by
  constructor
  · rintro ⟨i, hi⟩
    rw [eq_encode_of_decodeWord hi]
    cases i <;> decide
  · intro ⟨hpos, hle⟩
    have hn := encode_toNat_all ⟨w.toNat - 1, by omega⟩
    exact ⟨_, (decodeWord_ok_iff _ w).2 (BitVec.eq_of_toNat_eq (hn.trans (Nat.sub_add_cancel hpos)).symm)⟩

/-- Settles O1: `decodeWord_encode` one way and `eq_encode_of_decodeWord` the other. -/
theorem oneValidWordPerCommand : Obligations.OneValidWordPerCommand :=
  ⟨decodeWord_ok_iff, rfl, rfl, rfl, rfl, rfl, rfl, rfl, rfl⟩

/-- Settles O3, by running the decoder. -/
theorem sampleWordsDecode : Obligations.SampleWordsDecode := by
  unfold Obligations.SampleWordsDecode
  decide

/-! ### Disassembly -/

theorem disassemble_encode (i : Instr) : disassemble (encode i) = i.mnemonic := by rw [disassemble, decodeWord_encode]

theorem disassemble_of_error {w : Word} {e : DecodeError} (h : decodeWord w = .error e) :
    disassemble w = "CMD.ILLEGAL 0x" ++ String.ofList (hexDigits w) := by rw [disassemble, h]

/-- One more digit below a number that digits already write. -/
def pushHexDigit (n : Option Nat) (c : Char) : Option Nat := n.bind fun n => (hexValue c).map fun d => 16 * n + d

theorem hexNumber_eq_foldl (ds : List Char) : hexNumber ds = ds.foldl pushHexDigit (some 0) := rfl

theorem hexValue_hexDigit : ∀ d : Fin 16, hexValue (hexDigit d) = some d.val := by decide

theorem pushHexDigit_hexDigit (n : Nat) {d : Nat} (h : d < 16) : pushHexDigit (some n) (hexDigit d) = some (16 * n + d) := by
  have hd : hexValue (hexDigit d) = some d := hexValue_hexDigit ⟨d, h⟩
  simp [pushHexDigit, hd]

/-- The lowest `k` hex digits of `n`, the highest of them first, complete what stands above them to `n`. -/
theorem foldl_pushHexDigit (n k : Nat) :
    ((List.range k).reverse.map fun j => hexDigit ((n >>> (4 * j)) % 16)).foldl pushHexDigit (some (n >>> (4 * k))) =
      some n := by
  induction k with
  | zero => rfl
  | succ k ih =>
    have hdigit : 16 * (n >>> (4 * (k + 1))) + (n >>> (4 * k)) % 16 = n >>> (4 * k) := by
      rw [Nat.mul_succ, Nat.shiftRight_add, Nat.shiftRight_eq_div_pow _ 4]
      exact Nat.div_add_mod _ 16
    rw [List.range_succ, List.reverse_concat, List.map_cons, List.foldl_cons,
      pushHexDigit_hexDigit _ (Nat.mod_lt _ (by decide)), hdigit, ih]

theorem hexNumber_hexDigits (w : Word) : hexNumber (hexDigits w) = some w.toNat := by
  have hfold := foldl_pushHexDigit w.toNat 8
  rw [Nat.shiftRight_eq_div_pow, Nat.div_eq_of_lt w.isLt] at hfold
  rw [hexNumber_eq_foldl]
  exact hfold

/-- Settles O4: the decoder rejects every word but 1 to 8, and the eight digits write the word. -/
theorem disassemblyPrintsTheWord : Obligations.DisassemblyPrintsTheWord := by
  refine ⟨⟨disassemble_encode .compute, disassemble_encode .step1, disassemble_encode .step2, disassemble_encode .step4,
    disassemble_encode .step8, disassemble_encode .clmul, disassemble_encode .romrd, disassemble_encode .combine⟩,
    fun w hw => ⟨hexDigits w, rfl, hexNumber_hexDigits w, ?_⟩⟩
  cases hd : decodeWord w with
  | error e => exact disassemble_of_error hd
  | ok i =>
    have hvalid := (exists_decodeWord_ok_iff w).1 ⟨i, hd⟩
    omega

end Sys2Proof
end

section
/-! Which command the engine's move runs, field by field of the latched word (30_encoding.md R81, R85; 60_exceptions.md R182,
R198). -/

namespace Sys2Proof.Machine
open Sys2Proof.Claims

/-- An illegal word completes with ILLEGAL_CMD, error code 1. -/
theorem engineMove_of_decode_error {s : State} {e : DecodeError} (hb : s.seq = .busy)
    (hd : decodeWord s.latch.cmd = .error e) : engineMove s = .next (failedWith 1 s) := by
  rw [engineMove, if_pos ((isBusy_iff s).2 hb), hd]
  rfl

/-- A word without reserved bits runs the command whose word has its `OP`. -/
theorem engineMove_of_opField {s : State} {i : Instr} {op : BitVec 4} (hb : s.seq = .busy)
    (hr : rsvField s.latch.cmd = 0) (hi : decodeWord (0#28 ++ op) = .ok i) (ho : opField s.latch.cmd = op) :
    engineMove s = exec i s :=
  engineMove_of_decode hb ((decodeWord_eq_of_rsvField hr).trans (ho ▸ hi))

/-- Settles O2, one decoder lemma per clause. -/
theorem engineRunsTheSelectedCommand : Obligations.EngineRunsTheSelectedCommand := by
  refine ⟨fun s => engineMove_of_idle, fun s hb => ⟨fun hr => ?_, fun hr => ?_, exists_decodeWord_ok_iff _⟩⟩
  · exact engineMove_of_decode_error hb (decodeWord_of_rsvField_ne hr)
  · exact ⟨engineMove_of_opField hb hr rfl, engineMove_of_opField hb hr rfl, engineMove_of_opField hb hr rfl,
      engineMove_of_opField hb hr rfl, engineMove_of_opField hb hr rfl, engineMove_of_opField hb hr rfl,
      engineMove_of_opField hb hr rfl, engineMove_of_opField hb hr rfl,
      fun ho => engineMove_of_decode_error hb (decodeWord_of_reservedOp hr ho)⟩

end Sys2Proof.Machine
end

section
/-! The host's program (30_encoding.md R87, R88): what one statement does to the host's variables and to the block, and when
the polls end. -/

namespace Sys2Proof.Machine
open Sys2Proof.Claims

/-! ### Statements -/

/-- Every register of R21 can be accessed. -/
theorem admitAccess_offset (base : Nat) (r : Reg) : admitAccess base (base + r.offset) 32 = .ok r.offset :=
  (admitAccess_ok_iff ..).2 ⟨rfl, rfl, r.offset_lt.trans (by decide), by cases r <;> rfl⟩

theorem runStmt_wr (s : State) (r : Reg) (e : Expr) :
    runStmt (HostStmt.wr s.regBase r e) s = .next (r.write (e.eval s.host) s) := by
  rw [HostStmt.wr, runStmt_write_of_admitted e (admitAccess_offset s.regBase r), windowWrite_offset]

theorem runStmt_rd (s : State) (r : Reg) (x : Var) :
    runStmt (HostStmt.rd s.regBase r x) s = .next (setHostVar x (r.read s) s) := by
  rw [HostStmt.rd, runStmt_read_of_admitted x (admitAccess_offset s.regBase r), windowRead_offset]

theorem runStmt_wait (s : State) (t : Var) :
    runStmt (HostStmt.wait s.regBase t) s =
      .next (pollAgain (s.regBase + Reg.offset .status) t 0 (Reg.read .status s) s) := by
  rw [HostStmt.wait, runStmt_poll_of_admitted t 0 (admitAccess_offset s.regBase .status), windowRead_offset]

/-- What comes back to the front of the program is the statement just taken off. -/
theorem pushStmt_popStmt {s : State} {st : HostStmt} {rest : List HostStmt} (h : s.host.program = st :: rest) :
    pushStmt st (popStmt s) = s := by
  rw [pushStmt, popStmt_host, h, List.tail_cons, ← h]
  rfl

theorem pushStmt_setHostVar (st : HostStmt) (x : Var) (v : Word) (s : State) :
    pushStmt st (setHostVar x v s) = setHostVar x v (pushStmt st s) := rfl

/-! ### The polls -/

theorem hostMove_wait {s : State} {t : Var} {rest : List HostStmt} (h : s.host.program = HostStmt.wait s.regBase t :: rest) :
    hostMove s = .next (pollAgain (s.regBase + Reg.offset .status) t 0 (Reg.read .status s) (popStmt s)) :=
  (hostMove_of_cons h).trans (runStmt_wait (popStmt s) t)

theorem hostMove_wait_of_idle {s : State} {t : Var} {rest : List HostStmt}
    (h : s.host.program = HostStmt.wait s.regBase t :: rest) (hi : s.seq = .idle) :
    hostMove s = .next (setHostVar t (Reg.read .status s) (popStmt s)) := by
  have hbit : (Reg.read .status s).getLsbD 0 = false := (statusWord_getLsbD_zero s).trans ((isBusy_eq_false_iff s).2 hi)
  rw [hostMove_wait h, pollAgain, hbit, if_neg Bool.false_ne_true]

theorem hostMove_wait_of_busy {s : State} {t : Var} {rest : List HostStmt}
    (h : s.host.program = HostStmt.wait s.regBase t :: rest) (hb : s.seq = .busy) :
    hostMove s = .next (setHostVar t (Reg.read .status s) s) := by
  have hbit : (Reg.read .status s).getLsbD 0 = true := (statusWord_getLsbD_zero s).trans ((isBusy_iff s).2 hb)
  rw [hostMove_wait h, pollAgain, if_pos hbit, pushStmt_setHostVar, ← HostStmt.wait, pushStmt_popStmt h]

theorem hostMove_waitIrq {s : State} {rest : List HostStmt} (h : s.host.program = .waitIrq :: rest) :
    hostMove s = .next (if s.irq then popStmt s else s) := by
  rw [hostMove_of_cons h, runStmt, pushStmt_popStmt h]
  rfl

/-! ### Expressions -/

theorem Expr.getLsbD_eval_xor (h : HostAgent) (a b : Expr) (j : Nat) :
    ((Expr.xor a b).eval h).getLsbD j = ((a.eval h).getLsbD j != (b.eval h).getLsbD j) := by
  rw [Expr.eval, BitVec.getLsbD_xor]

theorem Expr.toNat_eval_shl (h : HostAgent) (a b : Expr) :
    ((Expr.shl a b).eval h).toNat = (a.eval h).toNat * 2 ^ (b.eval h).toNat % 2 ^ 32 := by
  rw [Expr.eval, BitVec.toNat_shiftLeft, Nat.shiftLeft_eq]

theorem Expr.toNat_eval_shr (h : HostAgent) (a b : Expr) :
    ((Expr.shr a b).eval h).toNat = (a.eval h).toNat / 2 ^ (b.eval h).toNat := by
  rw [Expr.eval, BitVec.toNat_ushiftRight, Nat.shiftRight_eq_div_pow]

theorem HostAgent.var_of_vars_eq_nil {h : HostAgent} (hv : h.vars = []) (x : Var) : h.var x = 0 := by
  rw [HostAgent.var, hv]
  rfl

/-- Settles O56: WAIT by whether BUSY reads 0 or 1, and every other clause by the lemma about its statement or expression. -/
theorem waitEndsWhenIdle : Obligations.WaitEndsWhenIdle := by
  refine ⟨fun s t rest hp => ?_,
    fun s => ⟨hostMove_of_nil, fun st rest hp => popStmt_eq_withProgram hp ▸ hostMove_of_cons hp⟩,
    runStmt_wr,
    fun s r e x hw => ⟨⟨_, runStmt_rd s r x, rfl, assignedAlone_setVar hw x _⟩, _, rfl, rfl, assignedAlone_setVar hw x _⟩,
    fun s rest hp => ⟨fun hirq => ?_, fun hirq => ?_⟩,
    fun h v x a b => ⟨rfl, rfl, fun hv => HostAgent.var_of_vars_eq_nil hv x, Expr.getLsbD_eval_xor h a b,
      fun _ => BitVec.getLsbD_and, fun _ => BitVec.getLsbD_or, Expr.toNat_eval_shl h a b, Expr.toNat_eval_shr h a b⟩,
    fun base i w addr len v seed t x => ⟨rfl, rfl, rfl, rfl, rfl, rfl⟩⟩
  · cases hseq : s.seq with
    | idle =>
      exact ⟨_, hostMove_wait_of_idle hp hseq, rfl, fun _ => congrArg List.tail hp, nofun,
        fun hw => assignedAlone_setVar (h := (popStmt s).host) hw t _⟩
    | busy => exact ⟨_, hostMove_wait_of_busy hp hseq, rfl, nofun, fun _ => rfl, fun hw => assignedAlone_setVar hw t _⟩
  · rw [hostMove_waitIrq hp, if_pos hirq, popStmt_eq_withProgram hp]
  · rw [hostMove_waitIrq hp, hirq, if_neg Bool.false_ne_true]

end Sys2Proof.Machine
end

section
/-! The laws of the step functions (40_step_adapter.md R102 to R106): bytes that cancel the accumulator's own only shift it,
so that the accumulator can be folded into the data; and a step of many bytes is two steps of fewer. -/

namespace Sys2Proof.Machine

/-! ### Data equal to the accumulator's low bytes -/

theorem bitStep_of_low_zero {t : Word} (h : t.getLsbD 0 = false) : bitStep t = t >>> 1 := by
  rw [bitStep, h, if_neg Bool.false_ne_true]

/-- As long as only zeros are shifted out, the loop of R100 is a shift. -/
theorem bitStep_iterate_of_low_zero {n : Nat} {t : Word} (h : ∀ i < n, t.getLsbD i = false) :
    Nat.iterate bitStep n t = t >>> n := by
  induction n with
  | zero => exact (BitVec.ushiftRight_zero _).symm
  | succ n ih =>
    have hbit : (t >>> n).getLsbD 0 = false := by
      rw [BitVec.getLsbD_ushiftRight]
      exact h n (Nat.lt_succ_self n)
    rw [Function.iterate_succ_apply', ih fun i hi => h i (Nat.lt_succ_of_lt hi), bitStep_of_low_zero hbit,
      BitVec.shiftRight_add]

/-- A byte equal to the accumulator's low byte cancels it (R102). -/
theorem step1_low_byte (c : Word) : step1 c (c.extractLsb' 0 8) = c >>> 8 := by
  have hlow : ∀ i < 8, (c ^^^ (c.extractLsb' 0 8).setWidth 32).getLsbD i = false := by
    intro i hi
    simp [hi, show i < 32 by omega]
  rw [step1_eq, bitStep_iterate_of_low_zero hlow]
  ext i hi
  simp

/-- Data equal to the accumulator's low `k` bytes cancels them. -/
theorem stepk_low_bytes (k : Nat) (c : Word) : stepk k c (c.setWidth (8 * k)) = c >>> (8 * k) := by
  induction k with
  | zero => exact (BitVec.ushiftRight_zero _).symm
  | succ k ih =>
    have htop : (c.setWidth (8 * (k + 1))).extractLsb' (8 * k) 8 = (c >>> (8 * k)).extractLsb' 0 8 := by
      ext i hi
      simp [show 8 * k + i < 8 * (k + 1) by omega]
    rw [stepk_succ, BitVec.setWidth_setWidth_of_le c (by omega), ih, htop, step1_low_byte, ← BitVec.shiftRight_add]
    rfl

theorem stepk_low_bytes_eq_zero {k : Nat} (hk : 4 ≤ k) (c : Word) : stepk k c (c.setWidth (8 * k)) = 0 := by
  rw [stepk_low_bytes]
  exact BitVec.ushiftRight_eq_zero (by omega)

/-- 40_step_adapter.md R106 (b), for every step that covers the whole accumulator. -/
theorem stepk_fold_seed {k : Nat} (hk : 4 ≤ k) (c : Word) (v : BitVec (8 * k)) :
    stepk k c v = stepk k 0 (v ^^^ c.setWidth (8 * k)) := by
  calc stepk k c v
      = stepk k (c ^^^ 0) (c.setWidth (8 * k) ^^^ (v ^^^ c.setWidth (8 * k))) := by
        rw [show c ^^^ 0 = c from BitVec.xor_zero, BitVec.xor_comm v, ← BitVec.xor_assoc, BitVec.xor_self,
          BitVec.zero_xor]
    _ = stepk k 0 (v ^^^ c.setWidth (8 * k)) := by rw [stepk_xor, stepk_low_bytes_eq_zero hk]; exact BitVec.zero_xor

theorem step4_fold_seed (c v : Word) : step4 c v = step4 0 (v ^^^ c) := by
  have h := stepk_fold_seed (le_refl 4) c v
  rwa [BitVec.setWidth_eq] at h

theorem step4_self (c : Word) : step4 c c = 0 := by
  have h := stepk_low_bytes_eq_zero (le_refl 4) c
  rwa [BitVec.setWidth_eq] at h

/-! ### Grouping -/

/-- A step of `m + n` bytes is a step of the low `m`, then one of the other `n`. -/
theorem stepk_add (m n : Nat) (c : Word) (v : BitVec (8 * (m + n))) :
    stepk (m + n) c v = stepk n (stepk m c (v.setWidth (8 * m))) (v.extractLsb' (8 * m) (8 * n)) := by
  induction n with
  | zero => exact congrArg (stepk m c) (BitVec.setWidth_eq v).symm
  | succ n ih =>
    have hlow : (v.setWidth (8 * (m + n))).extractLsb' (8 * m) (8 * n) =
        (v.extractLsb' (8 * m) (8 * (n + 1))).setWidth (8 * n) := by
      ext i hi
      simp [show 8 * m + i < 8 * (m + n) by omega, show i < 8 * (n + 1) by omega]
    have htop : v.extractLsb' (8 * (m + n)) 8 = (v.extractLsb' (8 * m) (8 * (n + 1))).extractLsb' (8 * n) 8 := by
      ext i hi
      simp [show 8 * n + i < 8 * (n + 1) by omega, show 8 * (m + n) + i = 8 * m + (8 * n + i) by omega]
    refine (stepk_succ (m + n) c v).trans ?_
    rw [ih, BitVec.setWidth_setWidth_of_le v (by omega), hlow, htop, ← stepk_succ]

theorem stepk_one (c : Word) (b : Byte) : stepk 1 c b = step1 c b :=
  congrArg (step1 c) BitVec.extractLsb'_eq_self

/-- `stepk_add` for data given by its two parts. -/
theorem stepk_of_parts {m n : Nat} (c : Word) {v : BitVec (8 * (m + n))} {h : BitVec (8 * n)} {l : BitVec (8 * m)}
    (hl : v.setWidth (8 * m) = l) (hh : v.extractLsb' (8 * m) (8 * n) = h) :
    stepk (m + n) c v = stepk n (stepk m c l) h := by
  rw [stepk_add, hl, hh]

/-- 40_step_adapter.md R106 (c), for each of its three widths. -/
theorem step2_append (c : Word) (h l : Byte) : step2 c (h ++ l) = step1 (step1 c l) h := by
  rw [← stepk_one, ← stepk_one]
  exact stepk_of_parts (m := 1) (n := 1) c BitVec.setWidth_append_eq_right BitVec.extractLsb'_append_eq_left

theorem step4_append (c : Word) (h l : BitVec 16) : step4 c (h ++ l) = step2 (step2 c l) h :=
  stepk_of_parts (m := 2) (n := 2) c BitVec.setWidth_append_eq_right BitVec.extractLsb'_append_eq_left

theorem step8_append (c : Word) (h l : Word) : step8 c (h ++ l) = step4 (step4 c l) h :=
  stepk_of_parts (m := 4) (n := 4) c BitVec.setWidth_append_eq_right BitVec.extractLsb'_append_eq_left

/-- Settles O12: linearity, the fold of the accumulator and the grouping, each by its lemma. -/
theorem stepFunctionLaws : Obligations.StepFunctionLaws :=
  ⟨stepk_xor, step4_fold_seed, stepk_fold_seed (k := 8) (by omega), step2_append, step4_append, step8_append⟩

end Sys2Proof.Machine
end

section
/-! The laws of the carryless product (40_step_adapter.md R107 to R109), from its linearity in each argument and its value on
single bits. -/

namespace Sys2Proof.Machine

/-- What holds of 0 and of every single bit and is kept by exclusive or holds of every value. -/
theorem xor_induction {w : Nat} {P : BitVec w → Prop} (zero : P 0) (xor : ∀ x y, P x → P y → P (x ^^^ y))
    (bit : ∀ i < w, P (BitVec.twoPow w i)) (v : BitVec w) : P v := by
  have low : ∀ k ≤ w, P ((v.setWidth k).setWidth w) := by
    intro k
    induction k with
    | zero =>
      intro _
      have h0 : (v.setWidth 0).setWidth w = 0 := by rw [BitVec.eq_nil (v.setWidth 0)]; simp
      rwa [h0]
    | succ k ih =>
      intro hk
      rw [low_bits_succ]
      refine xor _ _ (ih (by omega)) ?_
      split
      · exact bit k hk
      · exact zero
  simpa using low w le_rfl

theorem xor_clmul (a a' b : Word) : clmul (a ^^^ a') b = clmul a b ^^^ clmul a' b := clmul_linear_left b a a'

theorem clmul_xor (a b b' : Word) : clmul a (b ^^^ b') = clmul a b ^^^ clmul a b' := clmul_linear_right a b b'

theorem clmul_zero (a : Word) : clmul a 0 = 0 := (clmul_linear_right a).map_zero

theorem zero_clmul (b : Word) : clmul 0 b = 0 := (clmul_linear_left b).map_zero

theorem clmul_one (a : Word) : clmul a 1 = a.setWidth 64 :=
  (clmul_twoPow a (j := 0) (by omega)).trans (BitVec.shiftLeft_zero _)

/-- The product of two single bits. -/
theorem clmul_twoPow_twoPow {i j : Nat} (hi : i < 32) (hj : j < 32) :
    clmul (BitVec.twoPow 32 i) (BitVec.twoPow 32 j) = BitVec.twoPow 64 (i + j) := by
  rw [clmul_twoPow _ hj, twoPow_shiftLeft hi]

/-- 40_step_adapter.md R109 (a). -/
theorem clmul_comm (a b : Word) : clmul a b = clmul b a := by
  refine XorLinear.ext (clmul_linear_left b) (clmul_linear_right b) (fun i hi => ?_) a
  refine XorLinear.ext (clmul_linear_right _) (clmul_linear_left _) (fun j hj => ?_) b
  rw [clmul_twoPow_twoPow hi hj, clmul_twoPow_twoPow hj hi, Nat.add_comm]

/-- The degrees of the factors add up to 62 at most. -/
theorem clmul_getLsbD_63 (a b : Word) : (clmul a b).getLsbD 63 = false := by
  induction b using xor_induction with
  | zero => rw [clmul_zero]; rfl
  | xor x y hx hy => rw [clmul_xor, BitVec.getLsbD_xor, hx, hy]; rfl
  | bit j hj =>
    rw [clmul_twoPow a hj]
    simp [show 32 ≤ 63 - j by omega]

theorem highWord_clmul_getLsbD_31 (a b : Word) : ((clmul a b).extractLsb' 32 32).getLsbD 31 = false := by
  rw [BitVec.getLsbD_extractLsb', clmul_getLsbD_63]
  rfl

/-- Settles O13: commutativity on single bits, linearity, and the top bit of a product with a single bit. -/
theorem clmulLaws : Obligations.ClmulLaws :=
  ⟨clmul_comm, xor_clmul, clmul_xor, clmul_getLsbD_63⟩

end Sys2Proof.Machine
end

section
/-! What the five commands of 40_step_adapter.md write, with the corner cases of their rules. -/

namespace Sys2Proof.Machine

/-- Settles O7: the meaning is that completion, and a byte equal to the accumulator's low byte cancels it. -/
theorem step1FoldsOneByte : Obligations.Step1FoldsOneByte := by
  refine ⟨fun s => rfl, by decide +kernel, ?_, by decide +kernel, by decide +kernel⟩
  rintro c v rfl
  exact step1_low_byte c

/-- Settles O8: the meaning is that completion, and `stepk 2` unrolls to two byte steps, the low byte first. -/
theorem step2FoldsTwoBytes : Obligations.Step2FoldsTwoBytes :=
  ⟨fun s => rfl, fun c v => rfl, by decide +kernel, by decide +kernel⟩

/-- Settles O9: the meaning is that completion, the accumulator folds into the data, and `stepk 4` unrolls to four byte
steps. -/
theorem step4FoldsFourBytes : Obligations.Step4FoldsFourBytes :=
  ⟨fun s => rfl, fun c v => BitVec.xor_comm v c ▸ step4_fold_seed c v, step4_self, by decide +kernel, fun c v => rfl⟩

/-- Settles O10: the meaning is that completion, and a product has 63 bits. -/
theorem step8FoldsEightBytes : Obligations.Step8FoldsEightBytes :=
  ⟨fun s => rfl, by decide +kernel, by decide +kernel, by decide +kernel, clmul_getLsbD_63, by decide +kernel⟩

/-- Settles O11: the meaning is that completion; the corner cases are values of the linear product. -/
theorem clmulWritesTheProduct : Obligations.ClmulWritesTheProduct :=
  ⟨fun s => rfl, fun a => ⟨clmul_zero a, zero_clmul a, clmul_one a⟩, highWord_clmul_getLsbD_31,
    by decide +kernel, by decide +kernel, by decide +kernel⟩

end Sys2Proof.Machine
end

section
/-! What the step functions and the carryless product stand for as polynomials over GF(2) (40_step_adapter.md R106 (d),
R109 (d), (e)). Modulo `P(x)` polynomials are elements of the ring `AdjoinRoot castagnoli`, in which one turn of the loop of
R100 is multiplication by `x`. -/

namespace Sys2Proof.Machine
open Sys2Proof.Claims Polynomial

/-! ### Reflected polynomials -/

theorem reflPoly_zero (w : Nat) : reflPoly (0 : BitVec w) = 0 := by simp [reflPoly]

theorem reflPoly_xor {w : Nat} (x y : BitVec w) : reflPoly (x ^^^ y) = reflPoly x + reflPoly y := by
  rw [reflPoly, reflPoly, reflPoly, ← Finset.sum_add_distrib]
  refine Finset.sum_congr rfl fun i _ => ?_
  cases hx : x.getLsbD i <;> cases hy : y.getLsbD i <;> simp [hx, hy, CharTwo.add_self_eq_zero]

theorem reflPoly_twoPow {w i : Nat} (hi : i < w) : reflPoly (BitVec.twoPow w i) = X ^ (w - 1 - i) := by
  rw [reflPoly, Finset.sum_eq_single_of_mem i (Finset.mem_range.2 hi)]
  · simp [hi]
  · intro j _ hj
    simp [hj.symm]

/-- The low bits of a value have the higher powers. -/
theorem reflPoly_split {m n : Nat} (v : BitVec (m + n)) :
    reflPoly v = reflPoly (v.setWidth m) * X ^ n + reflPoly (v.extractLsb' m n) := by
  rw [reflPoly, Finset.sum_range_add, reflPoly, reflPoly, Finset.sum_mul]
  congr 1
  · refine Finset.sum_congr rfl fun i hi => ?_
    have hi : i < m := Finset.mem_range.1 hi
    cases hv : v.getLsbD i
    · simp [hv]
    · simp [hi, hv, ← pow_add, show m - 1 - i + n = m + n - 1 - i by omega]
  · refine Finset.sum_congr rfl fun i hi => ?_
    have hi : i < n := Finset.mem_range.1 hi
    simp [hi, show m + n - 1 - (m + i) = n - 1 - i by omega]

/-- A byte in an accumulator. -/
theorem reflPoly_setWidth_byte (b : Byte) : reflPoly (b.setWidth 32) = reflPoly b * X ^ 24 := by
  have h : reflPoly (b.setWidth 32) =
      reflPoly ((b.setWidth 32).setWidth 8) * X ^ 24 + reflPoly ((b.setWidth 32).extractLsb' 8 24) :=
    reflPoly_split (m := 8) (n := 24) _
  have hlow : (b.setWidth 32).setWidth 8 = b := by simp
  have htop : (b.setWidth 32).extractLsb' 8 24 = 0 := by
    ext i hi
    simp
  rw [h, hlow, htop, reflPoly_zero, add_zero]

/-- 00_scope.md R15. -/
theorem castagnoli_eq : castagnoli = X ^ 32 + reflPoly poly := by
  simp [castagnoli, castagnoliExponents, reflPoly, Finset.sum_range_succ, poly]
  ring

/-! ### Modulo `P(x)` -/

/-- What `v` stands for modulo `P(x)`. -/
noncomputable def residue {w : Nat} (v : BitVec w) : AdjoinRoot castagnoli := AdjoinRoot.mk castagnoli (reflPoly v)

theorem congrModP_iff (a b : Polynomial (ZMod 2)) :
    congrModP a b ↔ AdjoinRoot.mk castagnoli a = AdjoinRoot.mk castagnoli b := AdjoinRoot.mk_eq_mk.symm

theorem residue_zero (w : Nat) : residue (0 : BitVec w) = 0 := by rw [residue, reflPoly_zero, map_zero]

theorem residue_xor {w : Nat} (x y : BitVec w) : residue (x ^^^ y) = residue x + residue y := by
  rw [residue, reflPoly_xor, map_add]; rfl

theorem residue_twoPow {w i : Nat} (hi : i < w) :
    residue (BitVec.twoPow w i) = AdjoinRoot.root castagnoli ^ (w - 1 - i) := by
  rw [residue, reflPoly_twoPow hi, map_pow, AdjoinRoot.mk_X]

/-- `POLY` stands for `x^32`. -/
theorem residue_poly : residue poly = AdjoinRoot.root castagnoli ^ 32 := by
  have h : congrModP (reflPoly poly) (X ^ 32) :=
    dvd_of_eq (by rw [castagnoli_eq, CharTwo.sub_eq_add, add_comm])
  rw [residue, (congrModP_iff ..).1 h, map_pow, AdjoinRoot.mk_X]

/-- One turn of the loop of R100 is multiplication by `x`. -/
theorem residue_bitStep (t : Word) : residue (bitStep t) = residue t * AdjoinRoot.root castagnoli := by
  induction t using xor_induction with
  | zero => rw [bitStep_zero, residue_zero, zero_mul]
  | xor x y hx hy => rw [bitStep_xor, residue_xor, residue_xor, hx, hy, add_mul]
  | bit i hi =>
    cases i with
    | zero => rw [show bitStep (BitVec.twoPow 32 0) = poly from by decide, residue_poly, residue_twoPow hi, ← pow_succ]
    | succ i =>
      rw [bitStep_twoPow_succ hi, residue_twoPow hi, residue_twoPow (Nat.lt_of_succ_lt hi), ← pow_succ]
      congr 1
      omega

theorem residue_bitStep_iterate (n : Nat) (t : Word) :
    residue (Nat.iterate bitStep n t) = residue t * AdjoinRoot.root castagnoli ^ n := by
  induction n with
  | zero => rw [pow_zero, mul_one]; rfl
  | succ n ih => rw [Function.iterate_succ_apply', residue_bitStep, ih, pow_succ, mul_assoc]

/-- A byte enters the accumulator 24 places up, and is 8 turns away from `x^32`. -/
theorem residue_step1 (c : Word) (b : Byte) :
    residue (step1 c b) =
      residue c * AdjoinRoot.root castagnoli ^ 8 + residue b * AdjoinRoot.root castagnoli ^ 32 := by
  have hb : residue (b.setWidth 32) = residue b * AdjoinRoot.root castagnoli ^ 24 := by
    rw [residue, reflPoly_setWidth_byte, map_mul, map_pow, AdjoinRoot.mk_X]; rfl
  rw [step1_eq, residue_bitStep_iterate, residue_xor, hb]
  ring

theorem residue_stepk (k : Nat) (c : Word) (v : BitVec (8 * k)) :
    residue (stepk k c v) =
      residue c * AdjoinRoot.root castagnoli ^ (8 * k) + residue v * AdjoinRoot.root castagnoli ^ 32 := by
  induction k with
  | zero => rw [BitVec.eq_nil v, stepk_zero]; simp [residue, reflPoly]
  | succ k ih =>
    have hv : residue v = residue (v.setWidth (8 * k)) * AdjoinRoot.root castagnoli ^ 8 +
        residue (v.extractLsb' (8 * k) 8) := by
      have h := congrArg (AdjoinRoot.mk castagnoli) (reflPoly_split (m := 8 * k) (n := 8) v)
      rwa [map_add, map_mul, map_pow, AdjoinRoot.mk_X] at h
    rw [stepk_succ, residue_step1, ih, hv]
    ring

theorem stepk_congrModP (k : Nat) (c : Word) (v : BitVec (8 * k)) :
    congrModP (reflPoly (stepk k c v)) (reflPoly c * X ^ (8 * k) + reflPoly v * X ^ 32) := by
  rw [congrModP_iff, map_add, map_mul, map_mul, map_pow, map_pow, AdjoinRoot.mk_X]
  exact residue_stepk k c v

/-- Settles O14: `P(x)` written out, and the residues of the two sides. -/
theorem stepIsPolynomialReduction : Obligations.StepIsPolynomialReduction := ⟨castagnoli_eq, stepk_congrModP⟩

/-! ### The carryless product -/

theorem reflPoly_twoPow_clmul {i : Nat} (hi : i < 32) (b : Word) :
    reflPoly (clmul (BitVec.twoPow 32 i) b) = X ^ (31 - i) * reflPoly b * X := by
  induction b using xor_induction with
  | zero => rw [clmul_zero, reflPoly_zero, reflPoly_zero, mul_zero, zero_mul]
  | xor x y hx hy => rw [clmul_xor, reflPoly_xor, reflPoly_xor, hx, hy, mul_add, add_mul]
  | bit j hj =>
    rw [clmul_twoPow_twoPow hi hj, reflPoly_twoPow hj, reflPoly_twoPow (by omega), ← pow_add, ← pow_succ]
    congr 1
    omega

/-- 40_step_adapter.md R109 (d). -/
theorem reflPoly_clmul (a b : Word) : reflPoly (clmul a b) = reflPoly a * reflPoly b * X := by
  induction a using xor_induction with
  | zero => rw [zero_clmul, reflPoly_zero, reflPoly_zero, zero_mul, zero_mul]
  | xor x y hx hy => rw [xor_clmul, reflPoly_xor, reflPoly_xor, hx, hy, add_mul, add_mul]
  | bit i hi => rw [reflPoly_twoPow_clmul hi, reflPoly_twoPow hi]

/-- Settles O15: a doubleword fold with seed 0 multiplies by `x^32`. -/
theorem clmulIsPolynomialProduct : Obligations.ClmulIsPolynomialProduct := by
  intro a b
  have h : congrModP (reflPoly (step8 0 (clmul a b))) _ := stepk_congrModP 8 0 (clmul a b)
  rw [reflPoly_zero, zero_mul, zero_add, reflPoly_clmul, mul_assoc _ X, ← pow_succ'] at h
  exact ⟨reflPoly_clmul a b, h⟩

end Sys2Proof.Machine
end

section
/-! The combine-constant ROM (41_combine_rom.md R120 to R125): when it has an entry, the 128 rows of the table of R123, what
its constants stand for modulo `P(x)`, and the command that reads it. -/

namespace Sys2Proof.Machine
open Sys2Proof.Claims Polynomial

/-! ### Entries -/

theorem romRead_of_mem {p : Params} {n : Nat} (h1 : 1 ≤ n) (hmax : n ≤ p.maxBlockLen) :
    romRead p n = some (romEntry n) := if_pos ⟨h1, hmax⟩

theorem romRead_of_not_mem {p : Params} {n : Nat} (h : n < 1 ∨ p.maxBlockLen < n) : romRead p n = none :=
  if_neg fun ⟨h1, hmax⟩ => h.elim h1.not_gt hmax.not_gt

/-- The last statement of R123: both are the same number of shifts of 1. -/
theorem kHi_two_mul (m : Nat) : kHi (2 * m) = kLo m := rfl

/-! ### The table

Each row of the table is computed from the row before it alone, so that its 128 rows need one shift and two shifts each, and
not the `n - 1` and `2n - 1` shifts of R121. -/

/-- Row `n` of the table as R121 defines it. -/
def romRow (n : Nat) : Word × Word := (kHi n, kLo n)

/-- The row after `row`: `K_hi` is shifted by one doubleword, `K_lo` by two. -/
def nextRow (row : Word × Word) : Word × Word := (zeroShift row.1, zeroShift (zeroShift row.2))

theorem zeroShift_zeroShiftBy (m : Nat) (c : Word) : zeroShift (zeroShiftBy m c) = zeroShiftBy (m + 1) c :=
  (Function.iterate_succ_apply' zeroShift m c).symm

theorem nextRow_romRow {n : Nat} (hn : 1 ≤ n) : nextRow (romRow n) = romRow (n + 1) := by
  have hhi : n - 1 + 1 = n + 1 - 1 := by omega
  have hlo : 2 * n - 1 + 1 + 1 = 2 * (n + 1) - 1 := by omega
  simp only [nextRow, romRow, kHi, kLo, zeroShift_zeroShiftBy, hhi, hlo]

theorem romTable_first : romTable[0]? = some (romRow 1) := by decide +kernel

theorem romTable_isChain : romTable.IsChain fun row row' => nextRow row = row' := by decide +kernel

/-- The table holds the constants of R121. -/
theorem romTable_getElem {k : Nat} (hk : k < romTable.length) : romTable[k] = romRow (k + 1) := by
  induction k with
  | zero => exact (List.getElem?_eq_some_iff.1 romTable_first).2
  | succ k ih =>
    calc romTable[k + 1] = nextRow romTable[k] := (List.isChain_iff_getElem.1 romTable_isChain k hk).symm
      _ = nextRow (romRow (k + 1)) := by rw [ih]
      _ = romRow (k + 1 + 1) := nextRow_romRow (by omega)

theorem romTable_row_read {k : Nat} {row : Word × Word} (h : romTable[k]? = some row) :
    romEntry (k + 1) = row.1 ++ row.2 := by
  obtain ⟨hk, rfl⟩ := List.getElem?_eq_some_iff.1 h
  rw [romTable_getElem hk]
  rfl

/-- Settles O16: the table's first row and the step from each row to the next; the rest is when the ROM has an entry. -/
theorem romHoldsTheTable : Obligations.RomHoldsTheTable := by
  refine ⟨rfl, fun n row hrow => ?_, fun p n => romRead_of_mem, fun p n => romRead_of_not_mem, kHi_two_mul⟩
  rw [← romTable_row_read hrow]
  exact romRead_of_mem (Nat.le_add_left ..) n.isLt

/-! ### What the constants stand for -/

theorem residue_one : residue (1 : Word) = AdjoinRoot.root castagnoli ^ 31 := residue_twoPow (w := 32) (i := 0) (by omega)

/-- 64 turns of the loop of R100 a doubleword. -/
theorem residue_zeroShiftBy (m : Nat) (c : Word) :
    residue (zeroShiftBy m c) = residue c * AdjoinRoot.root castagnoli ^ (64 * m) := by
  rw [zeroShiftBy_eq_iterate, residue_bitStep_iterate]

theorem zeroShiftBy_one_congrModP (m : Nat) : congrModP (reflPoly (zeroShiftBy m 1)) (X ^ (31 + 64 * m)) := by
  rw [congrModP_iff, map_pow, AdjoinRoot.mk_X, pow_add, ← residue_one]
  exact residue_zeroShiftBy m 1

/-- Settles O17: 1 stands for `x^31`, and a shift by one doubleword is multiplication by `x^64`. -/
theorem romConstantsAreShiftedPowers : Obligations.RomConstantsAreShiftedPowers := by
  intro n hn
  have hhi : 64 * n - 33 = 31 + 64 * (n - 1) := by omega
  have hlo : 128 * n - 33 = 31 + 64 * (2 * n - 1) := by omega
  rw [hhi, hlo]
  exact ⟨zeroShiftBy_one_congrModP _, zeroShiftBy_one_congrModP _⟩

/-- Settles O18: one turn of the loop of R100 commutes with the fold of a product. -/
theorem shiftIdentity : Obligations.ShiftIdentity :=
  ⟨step8_clmul_zeroShiftBy, fun a _ hn => ⟨step8_clmul_kLo a hn, step8_clmul_kHi a hn⟩⟩

/-! ### ROMRD -/

theorem complete_badBlockLen_eq_failedWith (s : State) : complete (.err .badBlockLen) s = failedWith 2 s := rfl

theorem execRomrd_of_entry {s : State} {e : DWord} (h : romRead s.params s.latch.blockLen = some e) :
    execRomrd s = .next (completedWith (romLo e) (romHi e) s) := by
  rw [execRomrd, h, complete_ok_eq_completedWith]

theorem execRomrd_of_no_entry {s : State} (h : romRead s.params s.latch.blockLen = none) :
    execRomrd s = .next (failedWith 2 s) := by
  rw [execRomrd, h, complete_badBlockLen_eq_failedWith]

/-- Settles O19: whether the ROM has an entry, and the two halves of the entry. -/
theorem romrdReadsOneEntry : Obligations.RomrdReadsOneEntry := by
  refine ⟨fun s h1 hmax => ?_, fun s h => execRomrd_of_no_entry (romRead_of_not_mem h), rfl, by decide +kernel⟩
  have hexec : exec .romrd s = _ := execRomrd_of_entry (romRead_of_mem h1 hmax)
  rwa [romLo_romEntry, romHi_romEntry] at hexec

end Sys2Proof.Machine
end

section
/-! COMBINE (42_slicing_engine.md R142): what its result is, and when it has one. -/

namespace Sys2Proof.Machine
open Sys2Proof.Claims

/-- R142 over the two constants of the ROM. -/
theorem combine_eq_merge (a0 a1 a2 : Word) (n : Nat) :
    combine a0 a1 a2 n = step8 0 (clmul a0 (kLo n)) ^^^ step8 0 (clmul a1 (kHi n)) ^^^ a2 := by
  rw [combine, mergeProducts, romLo_romEntry, romHi_romEntry]

theorem execCombine_of_entry {s : State} {e : DWord} (h : romRead s.params s.latch.blockLen = some e) :
    execCombine s = .next (completedWith
      (combine s.latch.crcIn s.latch.opa32 s.latch.opaHigh s.latch.blockLen) 0 s) := by
  rw [execCombine, h, complete_ok_eq_completedWith]

theorem execCombine_of_no_entry {s : State} (h : romRead s.params s.latch.blockLen = none) :
    execCombine s = .next (failedWith 2 s) := by
  rw [execCombine, h, complete_badBlockLen_eq_failedWith]

/-- Settles O20: the merge of the two products under the ROM's constants, and the shift identity for what it computes. -/
theorem combineMergesTheStreams : Obligations.CombineMergesTheStreams := by
  refine ⟨fun s h1 hmax => ?_, fun s h => execCombine_of_no_entry (romRead_of_not_mem h),
    fun a0 a1 a2 _ hn => combine_eq_zeroShiftBy a0 a1 a2 hn, by decide +kernel⟩
  have hexec : exec .combine s = _ := execCombine_of_entry (romRead_of_mem h1 hmax)
  rwa [combine_eq_merge] at hexec

end Sys2Proof.Machine
end

section
/-! COMPUTE over a stable buffer of plain memory (42_slicing_engine.md R141, R145, R161): it succeeds exactly when every byte
of the buffer is readable, and its result is then the reference CRC of the bytes. -/

namespace Sys2Proof.Machine
open Sys2Proof.Claims

/-- COMPUTE over readable plain memory (R141). -/
theorem execCompute_of_readable {s : State} (hp : s.params.legal = true) (hd : s.disturbed = false)
    (hr : s.bufferInRange) (hread : s.space.readableRange s.latch.addr.toNat s.latch.len.toNat = true)
    (hplain : s.space.deviceIn s.latch.addr.toNat s.latch.len.toNat = false) :
    ∃ w, exec .compute s = .next (completedWith
      (crcRef s.latch.crcIn (s.space.bytesAt s.latch.addr.toNat s.latch.len.toNat)) 0 { s with work := w }) := by
  rcases execCompute_cases s with ⟨hr', -⟩ | ⟨-, ⟨hd', -⟩ | ⟨-, ⟨b, hc, -⟩ | ⟨w, hc, ⟨hv, -⟩ | ⟨-, h⟩⟩⟩⟩
  · exact absurd hr hr'.not_ge
  · exact absurd (hd.symm.trans hd') nofun
  · exact absurd (hread.symm.trans (computeRun_error hp hc)) nofun
  · exact absurd (hplain.symm.trans hv) nofun
  · have hcrc : w.c = crcRef s.latch.crcIn (s.space.bytesAt s.latch.addr.toNat s.latch.len.toNat) :=
      (computeRun_ok hp hc).2
    rw [hcrc, complete_ok_eq_completedWith] at h
    exact ⟨w, h⟩

/-- A COMPUTE over plain memory that reports no error read its whole buffer. -/
theorem execCompute_no_error {s t : State} (hp : s.params.legal = true) (hd : s.disturbed = false)
    (hplain : s.space.deviceIn s.latch.addr.toNat s.latch.len.toNat = false)
    (h : exec .compute s = .next t) (herr : t.status.err = false) :
    s.space.readableRange s.latch.addr.toNat s.latch.len.toNat = true ∧
      t.regs.resultLo = crcRef s.latch.crcIn (s.space.bytesAt s.latch.addr.toNat s.latch.len.toNat) := by
  rcases execCompute_cases s with ⟨-, h'⟩ | ⟨-, ⟨hd', -⟩ | ⟨-, ⟨b, -, h'⟩ | ⟨w, hc, ⟨hv, -⟩ | ⟨-, h'⟩⟩⟩⟩
  · cases h'.symm.trans h
    cases herr
  · exact absurd (hd.symm.trans hd') nofun
  · cases h'.symm.trans h
    cases herr
  · exact absurd (hplain.symm.trans hv) nofun
  · cases h'.symm.trans h
    exact computeRun_ok hp hc

theorem deviceIn_zero (d : DataSpace) (a : Nat) : d.deviceIn a 0 = false :=
  Bool.eq_false_iff.2 fun h => by
    obtain ⟨x, hlo, hhi, -⟩ := (deviceIn_iff ..).1 h
    omega

/-- No device in two adjoining ranges together means none in either. -/
theorem deviceIn_add_eq_false {d : DataSpace} {a m k : Nat} (h : d.deviceIn a (m + k) = false) :
    d.deviceIn a m = false ∧ d.deviceIn (a + m) k = false := by
  constructor
  · refine Bool.eq_false_iff.2 fun ht => Bool.eq_false_iff.1 h ?_
    obtain ⟨x, hlo, hhi, hx⟩ := (deviceIn_iff ..).1 ht
    exact (deviceIn_iff ..).2 ⟨x, hlo, by omega, hx⟩
  · refine Bool.eq_false_iff.2 fun ht => Bool.eq_false_iff.1 h ?_
    obtain ⟨x, hlo, hhi, hx⟩ := (deviceIn_iff ..).1 ht
    exact (deviceIn_iff ..).2 ⟨x, by omega, by omega, hx⟩

/-- Settles O23: the buffer's bytes are readable and no device, so the sequence comes to its end. -/
theorem computeReturnsTheReferenceCrc : Obligations.ComputeReturnsTheReferenceCrc := by
  intro s hp hd hr hbuf
  refine execCompute_of_readable hp hd hr
    ((readableRange_iff ..).2 fun x hlo hhi => (hbuf x ((covers_iff ..).2 ⟨hlo, hhi⟩)).1) ?_
  refine Bool.eq_false_iff.2 fun hdev => ?_
  obtain ⟨x, hlo, hhi, hx⟩ := (deviceIn_iff ..).1 hdev
  exact absurd (hx.symm.trans (hbuf x ((covers_iff ..).2 ⟨hlo, hhi⟩)).2) nofun

/-- Settles O25: an empty buffer is readable, plain and in range at every address. -/
theorem computeOfNothingReturnsTheSeed : Obligations.ComputeOfNothingReturnsTheSeed := by
  intro s hp hd hlen
  refine ⟨?_, accessSeq_zero hp _⟩
  have hlen : s.latch.len.toNat = 0 := by rw [hlen]; rfl
  have hr : s.bufferInRange := by
    rw [State.bufferInRange, hlen]
    exact s.latch.addr.isLt.le
  have h := execCompute_of_readable hp hd hr (by rw [hlen]; rfl) (by rw [hlen]; exact deviceIn_zero ..)
  rwa [hlen] at h

end Sys2Proof.Machine
end

section
/-! Chained COMPUTEs (42_slicing_engine.md R161), over a latched buffer given by its address and length. -/

namespace Sys2Proof.Machine
open Sys2Proof.Claims

theorem withLatchedBuffer_len {m : Nat} (hm : m < 2 ^ 64) (c : Word) (a : Nat) (s : State) :
    (withLatchedBuffer c a m s).latch.len.toNat = m :=
  Nat.mod_eq_of_lt hm

theorem withLatchedBuffer_addr {a : Nat} (ha : a < 2 ^ 64) (c : Word) (m : Nat) (s : State) :
    (withLatchedBuffer c a m s).latch.addr.toNat = a :=
  Nat.mod_eq_of_lt ha

/-- `execCompute_no_error` for a buffer in range. The latched address of an empty one may have wrapped. -/
theorem compute_latched_no_error {s t : State} {c : Word} {a m : Nat} (hp : s.params.legal = true)
    (hd : s.disturbed = false) (hm : m < 2 ^ 64) (hr : a + m ≤ 2 ^ 64) (hplain : s.space.deviceIn a m = false)
    (h : exec .compute (withLatchedBuffer c a m s) = .next t) (herr : t.status.err = false) :
    s.space.readableRange a m = true ∧ t.regs.resultLo = crcRef c (s.space.bytesAt a m) := by
  have hlen := withLatchedBuffer_len hm c a s
  rcases Nat.eq_zero_or_pos m with rfl | hpos
  · have hempty := execCompute_no_error (s := withLatchedBuffer c a 0 s) hp hd (by rw [hlen]; exact deviceIn_zero ..) h herr
    rw [hlen] at hempty
    exact ⟨rfl, hempty.2⟩
  · have haddr := withLatchedBuffer_addr (by omega : a < 2 ^ 64) c m s
    have hbuf := execCompute_no_error (s := withLatchedBuffer c a m s) hp hd (by rw [haddr, hlen]; exact hplain) h herr
    rwa [haddr, hlen] at hbuf

/-- Settles O32: both parts were read to their end, so the whole is readable, and the reference CRC splits. -/
theorem computeIsIncremental : Obligations.ComputeIsIncremental := by
  intro s t1 t2 c a m m' hp hd herr ha hm hr hplain h1 herr1 h2 herr2
  obtain ⟨hplain1, hplain2⟩ := deviceIn_add_eq_false hplain
  obtain ⟨hread1, hlo1⟩ := compute_latched_no_error hp hd (by omega) (by omega) hplain1 h1 herr1
  obtain ⟨hread2, hlo2⟩ := compute_latched_no_error hp hd (by omega) hr hplain2 h2 herr2
  have hlen := withLatchedBuffer_len hm c a s
  have haddr := withLatchedBuffer_addr ha c (m + m') s
  have hread : s.space.readableRange a (m + m') = true := by rw [readableRange_add, hread1, hread2]; rfl
  obtain ⟨w, h⟩ := execCompute_of_readable (s := withLatchedBuffer c a (m + m') s) hp hd
    (by rw [State.bufferInRange, haddr, hlen, ← Nat.add_assoc]; exact hr) (by rw [haddr, hlen]; exact hread)
    (by rw [haddr, hlen]; exact hplain)
  refine ⟨_, h, herr, ?_⟩
  show crcRef c (s.space.bytesAt _ _) = _
  rw [haddr, hlen, hlo2, hlo1, bytesAt_append, crcRef_append]

end Sys2Proof.Machine
end

section
/-! One slicing iteration as a fold of bytes (42_slicing_engine.md R150 to R153, R160). -/

namespace Sys2Proof.Machine

/-- Settles O30: the case of an iteration that does not fault. -/
theorem sliceIterationFoldsItsBytes : Obligations.SliceIterationFoldsItsBytes := by
  intro p d w w' hp hw h
  obtain ⟨hn, -, hr⟩ := blockLenFor_bounds hp hw
  rcases sliceIter_cases hp d hw with ⟨w1, h1, hn1, hf⟩ | ⟨⟨a, ha⟩, -⟩
  · cases h1.symm.trans h
    rw [← hn1] at hn hr hf
    exact ⟨hn, hn1, hr, hf.c_eq, hf.p_eq, (Nat.sub_eq_of_eq_add hf.r_add.symm).symm⟩
  · cases ha.symm.trans h

end Sys2Proof.Machine
end

section
/-! The accesses of COMPUTE tile the buffer (42_slicing_engine.md R159, 20_memory.md R66): every part of the sequence goes on
where the part before it ended, and the tail leaves nothing. -/

namespace Sys2Proof.Machine

/-- The addresses of the bytes that a list of accesses reads. -/
def accessedBytes (l : List (Nat × Nat)) : List Nat := l.flatMap fun x => List.range' x.1 x.2

theorem accessedBytes_append (l l' : List (Nat × Nat)) : accessedBytes (l ++ l') = accessedBytes l ++ accessedBytes l' :=
  List.flatMap_append

/-! ### One iteration -/

/-- One stream of `n` doublewords. -/
theorem flatMap_doublewords (b n : Nat) :
    (List.range n).flatMap (fun i => List.range' (b + 8 * i) 8) = List.range' b (8 * n) := by
  induction n with
  | zero => rfl
  | succ n ih =>
    rw [List.range_succ, List.flatMap_append, ih, List.flatMap_singleton, List.range'_append_1, Nat.mul_succ]

/-- The three streams of an iteration (R149, R151) are read in turns, and adjoin. -/
theorem accessedBytes_iterAccesses (p n : Nat) :
    (accessedBytes (iterAccesses p n)).Perm (List.range' p (bytesPerIter * n)) := by
  have hturn : accessedBytes (iterAccesses p n) = (List.range n).flatMap fun i =>
      List.range' (p + 8 * i) 8 ++ (List.range' (p + 8 * n + 8 * i) 8 ++ List.range' (p + 8 * (2 * n) + 8 * i) 8) := by
    simp [accessedBytes, iterAccesses, List.flatMap_assoc, Nat.mul_add, Nat.add_assoc]
  have hstreams : List.range' p (bytesPerIter * n) =
      List.range' p (8 * n) ++ (List.range' (p + 8 * n) (8 * n) ++ List.range' (p + 8 * (2 * n)) (8 * n)) := by
    rw [show p + 8 * (2 * n) = p + 8 * n + 8 * n by omega, List.range'_append_1, List.range'_append_1, bytesPerIter]
    congr 1
    omega
  rw [hturn, hstreams, ← flatMap_doublewords p, ← flatMap_doublewords (p + 8 * n), ← flatMap_doublewords (p + 8 * (2 * n))]
  exact (((List.flatMap_append_perm ..).append_left _).trans (List.flatMap_append_perm ..)).symm

/-! ### The parts of the sequence -/

/-- Of the buffer `[a, a + m)` the bytes before the pointer have been read, each once, and the others are left. -/
def Accesses.Tiled (a m : Nat) (x : Accesses) : Prop :=
  ∃ n, (accessedBytes x.list).Perm (List.range' a n) ∧ x.p = a + n ∧ x.r + n = m

/-- Accesses that read the next `k` bytes. -/
theorem Accesses.Tiled.next {a m k : Nat} {x : Accesses} {l : List (Nat × Nat)} (h : x.Tiled a m)
    (hl : (accessedBytes l).Perm (List.range' x.p k)) (hk : k ≤ x.r) :
    Tiled a m { list := x.list ++ l, p := x.p + k, r := x.r - k } := by
  obtain ⟨n, hperm, hp, hr⟩ := h
  refine ⟨n + k, ?_, by show x.p + k = a + (n + k); omega, by show x.r - k + (n + k) = m; omega⟩
  rw [accessedBytes_append, ← List.range'_append_1, ← hp]
  exact hperm.append hl

theorem Accesses.Tiled.one {a m k : Nat} {b : Bool} {x : Accesses} (h : x.Tiled a m) (hk : b = true → k ≤ x.r) :
    (x.one b k).Tiled a m := by
  cases b with
  | false => exact h
  | true => exact h.next (l := [(x.p, k)]) (by simp [accessedBytes]) (hk rfl)

theorem Accesses.Tiled.align {a m : Nat} {x : Accesses} (h : x.Tiled a m) : x.align.Tiled a m :=
  ((h.one (by simp)).one (by simp)).one (by simp)

theorem Accesses.Tiled.slices {a m : Nat} {ps : Params} (hp : ps.legal = true) (fuel : Nat) {x : Accesses}
    (h : x.Tiled a m) : (Accesses.slices ps fuel x).Tiled a m := by
  induction fuel generalizing x with
  | zero => exact h
  | succ fuel ih =>
    rw [Accesses.slices]
    split
    · next ht => exact ih (h.next (accessedBytes_iterAccesses ..) (blockLenFor_bounds hp ht).2.2)
    · exact h

theorem Accesses.Tiled.sliced {a m : Nat} {ps : Params} (hp : ps.legal = true) {x : Accesses} (h : x.Tiled a m) :
    (Accesses.sliced ps x).Tiled a m := by
  have halign : (if ps.alignLeading then x.align else x).Tiled a m := by
    split
    · exact h.align
    · exact h
  rw [Accesses.sliced]
  split
  · exact halign.slices hp _
  · exact h

theorem Accesses.Tiled.wide {a m : Nat} (fuel : Nat) {x : Accesses} (h : x.Tiled a m) :
    (Accesses.wide fuel x).Tiled a m := by
  induction fuel generalizing x with
  | zero => exact h
  | succ fuel ih =>
    rw [Accesses.wide]
    split
    · next h8 => exact ih (h.one fun _ => h8)
    · exact h

theorem Accesses.Tiled.tail {a m : Nat} {x : Accesses} (h : x.Tiled a m) : x.tail.Tiled a m :=
  (((h.wide _).one (by simp)).one (by simp)).one (by simp)

/-- Settles O27: the sequence keeps the tiling, and at its end no byte is left. -/
theorem accessesTileTheBuffer : Obligations.AccessesTileTheBuffer := by
  intro ps a m hp
  have hstart : Accesses.Tiled a m { list := [], p := a, r := m } := ⟨0, .nil, rfl, rfl⟩
  obtain ⟨n, hperm, -, hn⟩ := (hstart.sliced hp).tail
  rw [Accesses.tail_r, Nat.zero_add] at hn
  exact ⟨hn ▸ hperm, accessSeq_zero hp a⟩

end Sys2Proof.Machine
end

section
/-! The sequence of COMPUTE stops at the first unreadable access of its access sequence (42_slicing_engine.md R149, R158).
Part by part, a run and the list of its accesses go along together: while no access has faulted both have the same pointer
and length, and the address of a fault is that of the first unreadable access. -/

namespace Sys2Proof.Machine
open Sys2Proof.Claims

/-- The start address of the first access that has an unreadable byte. -/
def firstFault (d : DataSpace) (l : List (Nat × Nat)) : Option Nat :=
  (l.find? fun x => !d.readableRange x.1 x.2).map Prod.fst

theorem firstFault_append (d : DataSpace) (l l' : List (Nat × Nat)) :
    firstFault d (l ++ l') = (firstFault d l).or (firstFault d l') := by
  rw [firstFault, List.find?_append, Option.map_or]
  rfl

/-- The run, so far, is the one that makes the accesses `x`. -/
def Agrees (d : DataSpace) (x : Accesses) : Except Nat Working → Prop
  | .ok w => firstFault d x.list = none ∧ w.p = x.p ∧ w.r = x.r
  | .error a => firstFault d x.list = some a

/-- A run that goes on with accesses `l`. -/
theorem Agrees.bind {d : DataSpace} {x : Accesses} {e : Except Nat Working} {f : Working → Except Nat Working}
    {l : List (Nat × Nat)} {p r : Nat} (h : Agrees d x e)
    (hf : ∀ w, e = .ok w → w.p = x.p → w.r = x.r → Agrees d { list := l, p := p, r := r } (f w)) :
    Agrees d { list := x.list ++ l, p := p, r := r } (e >>= f) := by
  cases e with
  | error a =>
    show firstFault d (x.list ++ l) = some a
    rw [firstFault_append, h]
    rfl
  | ok w =>
    obtain ⟨hnone, hp, hr⟩ := h
    have hf := hf w rfl hp hr
    have hlist : firstFault d (x.list ++ l) = firstFault d l := by rw [firstFault_append, hnone, Option.none_or]
    show Agrees d _ (f w)
    cases hfw : f w with
    | error a =>
      rw [hfw] at hf
      exact hlist.trans hf
    | ok w' =>
      rw [hfw] at hf
      exact ⟨hlist.trans hf.1, hf.2⟩

/-- The part `g` of the access sequence lists the accesses of the part `f` of the run. -/
def Follows (d : DataSpace) (f : Working → Except Nat Working) (g : Accesses → Accesses) : Prop :=
  ∀ x e, Agrees d x e → Agrees d (g x) (e >>= f)

theorem follows_pure (d : DataSpace) : Follows d (fun w => pure w) fun x => x := fun x e h => by
  cases e <;> exact h

/-- One part after another. -/
theorem Follows.comp {d : DataSpace} {f f' : Working → Except Nat Working} {g g' : Accesses → Accesses}
    (h : Follows d f g) (h' : Follows d f' g') : Follows d (fun w => f w >>= f') fun x => g' (g x) := fun x e he => by
  have hcomp := h' _ _ (h x e he)
  rwa [bind_assoc] at hcomp

/-- A part chosen by the pointer and the length. -/
theorem Follows.choose {d : DataSpace} {f : Nat → Nat → Working → Except Nat Working} {g : Nat → Nat → Accesses → Accesses}
    (h : ∀ p r, Follows d (f p r) (g p r)) : Follows d (fun w => f w.p w.r w) fun x => g x.p x.r x := fun x e he => by
  cases e with
  | error a => exact h x.p x.r x _ he
  | ok w =>
    have hw := h x.p x.r x _ he
    obtain ⟨-, hp, hr⟩ := he
    show Agrees d (g x.p x.r x) (f w.p w.r w)
    rw [hp, hr]
    exact hw

/-- A part that is left out unless a condition holds. -/
theorem Follows.guard {d : DataSpace} {f : Working → Except Nat Working} {g : Accesses → Accesses}
    {b c : Nat → Nat → Prop} [∀ p r, Decidable (b p r)] [∀ p r, Decidable (c p r)] (hbc : ∀ p r, b p r ↔ c p r)
    (h : Follows d f g) :
    Follows d (fun w => if b w.p w.r then f w else pure w) fun x => if c x.p x.r then g x else x :=
  Follows.choose (f := fun p r w => if b p r then f w else pure w) (g := fun p r x => if c p r then g x else x)
    fun p r => by
      by_cases hb : b p r
      · simpa [hb, (hbc p r).1 hb] using h
      · simpa [hb, mt (hbc p r).2 hb] using follows_pure d

/-- `Follows.guard` for the loops, which go on while at least `n` bytes are left. -/
theorem Follows.whileLeft {d : DataSpace} {f : Working → Except Nat Working} {g : Accesses → Accesses} (n : Nat)
    (h : Follows d f g) : Follows d (fun w => if n ≤ w.r then f w else pure w) fun x => if n ≤ x.r then g x else x :=
  Follows.guard (b := fun _ r => n ≤ r) (c := fun _ r => n ≤ r) (fun _ _ => Iff.rfl) h

/-- A part that reads `l` and advances by `k`, both as the pointer and the length say. -/
theorem Follows.step {d : DataSpace} {f : Working → Except Nat Working} (l : Nat → Nat → List (Nat × Nat))
    (k : Nat → Nat → Nat)
    (h : ∀ w, Agrees d { list := l w.p w.r, p := w.p + k w.p w.r, r := w.r - k w.p w.r } (f w)) :
    Follows d f fun x => { list := x.list ++ l x.p x.r, p := x.p + k x.p x.r, r := x.r - k x.p x.r } := fun x e he =>
  he.bind fun w _ hp hr => by
    rw [← hp, ← hr]
    exact h w

/-! ### Single folds: leading alignment and the tail -/

theorem foldAt_follows (d : DataSpace) (k : Nat) : Follows d (foldAt d k) fun x => x.one true k :=
  Follows.step (fun p _ => [(p, k)]) (fun _ _ => k) fun w => by
    rcases foldAt_cases d k w with ⟨hr, h⟩ | ⟨hr, h⟩
    · rw [h]
      exact ⟨by simp [firstFault, hr], rfl, rfl⟩
    · rw [h]
      simp [Agrees, firstFault, hr]

theorem alignBit_follows (d : DataSpace) (b : Nat) :
    Follows d (alignBit d b) fun x => x.one (x.p.testBit b && decide (2 ^ b ≤ x.r)) (2 ^ b) :=
  Follows.guard (b := fun p r => p.testBit b ∧ 2 ^ b ≤ r) (c := fun p r => (p.testBit b && decide (2 ^ b ≤ r)) = true)
    (by simp) (foldAt_follows d (2 ^ b))

theorem alignLeading_follows (d : DataSpace) : Follows d (alignLeading d) Accesses.align :=
  (alignBit_follows d 0).comp ((alignBit_follows d 1).comp (alignBit_follows d 2))

theorem tailOne_follows (d : DataSpace) (k : Nat) : Follows d (tailOne d k) fun x => x.one (decide (k ≤ x.r)) k :=
  Follows.guard (b := fun _ r => k ≤ r) (c := fun _ r => decide (k ≤ r) = true) (by simp) (foldAt_follows d k)

theorem tailWide_follows (d : DataSpace) (fuel : Nat) : Follows d (tailWide d fuel) (Accesses.wide fuel) := by
  induction fuel with
  | zero => exact follows_pure d
  | succ fuel ih =>
    exact ((foldAt_follows d 8).comp ih).whileLeft 8

theorem tail_follows (d : DataSpace) : Follows d (tail d) Accesses.tail :=
  (Follows.choose fun _ r => tailWide_follows d (r / 8)).comp
    ((tailOne_follows d 4).comp ((tailOne_follows d 2).comp (tailOne_follows d 1)))

/-! ### The slicing loop -/

/-- The accesses of one step of the three-stream fold, for block length `n` at `p` (R149). -/
def streamAccesses (p n i : Nat) : List (Nat × Nat) := [(p + 8 * i, 8), (p + 8 * (n + i), 8), (p + 8 * (2 * n + i), 8)]

theorem streamStep_agrees (d : DataSpace) (w : Working) (i : Nat) :
    Agrees d { list := streamAccesses w.p w.n i, p := w.p, r := w.r } (streamStep d w i) := by
  rcases streamStep_cases d w i with ⟨v0, v1, v2, m0, m1, m2, h⟩ | ⟨h0, h⟩ | ⟨h0, h1, h⟩ | ⟨h0, h1, h2, h⟩
  · rw [h]
    refine ⟨?_, rfl, rfl⟩
    simp [streamAccesses, firstFault, (memRead_eq_ok m0).1, (memRead_eq_ok m1).1, (memRead_eq_ok m2).1]
  · simp [h, Agrees, streamAccesses, firstFault, h0]
  · simp [h, Agrees, streamAccesses, firstFault, h0, h1]
  · simp [h, Agrees, streamAccesses, firstFault, h0, h1, h2]

theorem streamStep_ok_n {d : DataSpace} {w w' : Working} {i : Nat} (h : streamStep d w i = .ok w') : w'.n = w.n := by
  rcases streamStep_cases d w i with ⟨v0, v1, v2, -, -, -, hs⟩ | ⟨-, hs⟩ | ⟨-, -, hs⟩ | ⟨-, -, -, hs⟩
  · cases hs.symm.trans h
    rfl
  all_goals cases hs.symm.trans h

theorem streams_agree (d : DataSpace) (is : List Nat) (w : Working) :
    Agrees d { list := is.flatMap (streamAccesses w.p w.n), p := w.p, r := w.r } (is.foldlM (streamStep d) w) := by
  induction is generalizing w with
  | nil => exact ⟨rfl, rfl, rfl⟩
  | cons i is ih =>
    rw [List.flatMap_cons, List.foldlM_cons]
    refine (streamStep_agrees d w i).bind fun w1 h1 hp hr => ?_
    have hrest := ih w1
    rwa [hp, hr, streamStep_ok_n h1] at hrest

theorem sliceIter_agrees (p : Params) (d : DataSpace) (w : Working) :
    Agrees d { list := iterAccesses w.p (blockLenFor p w.r), p := w.p + bytesPerIter * blockLenFor p w.r,
               r := w.r - bytesPerIter * blockLenFor p w.r } (sliceIter p d w) := by
  have hstreams := streams_agree d (List.range (iterStart p w).n) (iterStart p w)
  rw [sliceIter_eq]
  rcases streams_cases d (iterStart p w) le_rfl with ⟨w', hs, hf⟩ | ⟨⟨a, hs⟩, -⟩
  · rw [hs] at hstreams ⊢
    obtain ⟨hnone, -, -⟩ := hstreams
    refine ⟨hnone, ?_, ?_⟩
    · show w'.p + bytesPerIter * w'.n = _
      rw [hf.p_eq, hf.n_eq]
      rfl
    · show w'.r - bytesPerIter * w'.n = _
      rw [hf.r_eq, hf.n_eq]
      rfl
  · rw [hs] at hstreams ⊢
    exact hstreams

theorem sliceLoop_follows (p : Params) (d : DataSpace) (fuel : Nat) :
    Follows d (sliceLoop p d fuel) (Accesses.slices p fuel) := by
  induction fuel with
  | zero => exact follows_pure d
  | succ fuel ih =>
    have hiter := Follows.step (fun q r => iterAccesses q (blockLenFor p r)) (fun _ r => bytesPerIter * blockLenFor p r)
      (sliceIter_agrees p d)
    exact (hiter.comp ih).whileLeft p.threshold

theorem slicedPart_eq (p : Params) (d : DataSpace) : slicedPart p d = fun w =>
    if p.threshold ≤ w.r then
      (if p.alignLeading then alignLeading d w else pure w) >>= fun w => sliceLoop p d (w.r / bytesPerIter) w
    else pure w := by
  funext w
  cases h : p.alignLeading <;> simp [slicedPart, h]

theorem slicedPart_follows (p : Params) (d : DataSpace) : Follows d (slicedPart p d) (Accesses.sliced p) := by
  rw [slicedPart_eq]
  have halign : Follows d (fun w => if p.alignLeading then alignLeading d w else pure w)
      fun x => if p.alignLeading then x.align else x := by
    cases p.alignLeading with
    | false => exact follows_pure d
    | true => exact alignLeading_follows d
  have hloop := Follows.choose fun _ r => sliceLoop_follows p d (r / bytesPerIter)
  exact (halign.comp hloop).whileLeft p.threshold

/-! ### The whole sequence -/

/-- The run that starts at `w` and the access sequence of its buffer. -/
theorem computeRun_agrees (p : Params) (d : DataSpace) (w : Working) :
    Agrees d (Accesses.tail (Accesses.sliced p { list := [], p := w.p, r := w.r })) (computeRun p d w) :=
  ((slicedPart_follows p d).comp (tail_follows d)) _ (.ok w) ⟨rfl, rfl, rfl⟩

theorem computeRun_of_firstFault {p : Params} {d : DataSpace} {w : Working} {a : Nat}
    (h : firstFault d (accessSeq p w.p w.r) = some a) : computeRun p d w = .error a := by
  have hagree := computeRun_agrees p d w
  cases hc : computeRun p d w with
  | error b =>
    rw [hc] at hagree
    cases h.symm.trans hagree
    rfl
  | ok w' =>
    rw [hc] at hagree
    exact absurd (h.symm.trans hagree.1) nofun

theorem computeRun_of_no_fault {p : Params} {d : DataSpace} {w : Working}
    (h : firstFault d (accessSeq p w.p w.r) = none) : ∃ w', computeRun p d w = .ok w' := by
  have hagree := computeRun_agrees p d w
  cases hc : computeRun p d w with
  | error b =>
    rw [hc] at hagree
    exact absurd (h.symm.trans hagree) nofun
  | ok w' => exact ⟨w', rfl⟩

theorem execCompute_of_past_top {s : State} (h : 2 ^ 64 < s.latch.addr.toNat + s.latch.len.toNat) :
    execCompute s = .next (failedWith 3 s) := if_pos h

theorem execCompute_of_fault {s : State} {a : Nat} (hr : s.bufferInRange) (hd : s.disturbed = false)
    (h : computeRun s.params s.space (computeStart s.latch s.work) = .error a) :
    execCompute s = .next (faultedAt (BitVec.ofNat 64 a) s) := by
  rw [execCompute, if_neg hr.not_gt, if_neg (by simp [hd]), h]
  rfl

/-- Settles O24: the range check, then the first unreadable access; without one the whole buffer is readable. -/
theorem computeFollowsItsAccessSequence : Obligations.ComputeFollowsItsAccessSequence := by
  intro s hp hd
  refine ⟨fun htop => ⟨s.work, execCompute_of_past_top htop⟩, fun hr => ⟨fun x hx => ?_, fun hnone hplain => ?_⟩⟩
  · exact ⟨s.work, execCompute_of_fault hr hd (computeRun_of_firstFault (congrArg (Option.map Prod.fst) hx))⟩
  · obtain ⟨w, hw⟩ := computeRun_of_no_fault (w := computeStart s.latch s.work) (congrArg (Option.map Prod.fst) hnone)
    exact execCompute_of_readable hp hd hr (computeRun_ok hp hw).1 hplain

end Sys2Proof.Machine
end

section
/-! What a command may report (60_exceptions.md R181, R184, R186): a report writes no part of the result, and COMPUTE reports
RANGE for a buffer past 2^64 alone. -/

namespace Sys2Proof.Machine
open Sys2Proof.Claims

/-! ### Precise reports -/

theorem CmdError.one_le_code (e : CmdError) : 1 ≤ e.code.toNat :=
  Nat.one_le_iff_ne_zero.2 fun h => e.code_ne_zero (BitVec.eq_of_toNat_eq h)

/-- `exec_eq_complete`, with the working registers kept when the outcome is an error. -/
theorem exec_eq_complete_err_work (i : Instr) (s : State) :
    ∃ o w k, exec i s = .next (complete o { s with work := w, draws := k }) ∧ ∀ e, o = .err e → w = s.work := by
  cases i with
  | compute =>
    show ∃ o w k, execCompute s = .next (complete o { s with work := w, draws := k }) ∧ ∀ e, o = .err e → w = s.work
    rcases execCompute_cases s with ⟨-, h⟩ | ⟨-, ⟨-, h⟩ | ⟨-, ⟨a, -, h⟩ | ⟨w, -, ⟨-, h⟩ | ⟨-, h⟩⟩⟩⟩
    · exact ⟨_, s.work, s.draws, h, fun _ _ => rfl⟩
    · exact ⟨_, s.work, s.draws + 1, h, fun _ _ => rfl⟩
    · exact ⟨_, s.work, s.draws, h, fun _ _ => rfl⟩
    · exact ⟨_, w, s.draws + 1, h, nofun⟩
    · exact ⟨_, w, s.draws, h, nofun⟩
  | step1 => exact ⟨_, s.work, s.draws, rfl, fun _ _ => rfl⟩
  | step2 => exact ⟨_, s.work, s.draws, rfl, fun _ _ => rfl⟩
  | step4 => exact ⟨_, s.work, s.draws, rfl, fun _ _ => rfl⟩
  | step8 => exact ⟨_, s.work, s.draws, rfl, fun _ _ => rfl⟩
  | clmul => exact ⟨_, s.work, s.draws, rfl, fun _ _ => rfl⟩
  | romrd => exact ⟨_, s.work, s.draws, rfl, fun _ _ => rfl⟩
  | combine => exact ⟨_, s.work, s.draws, rfl, fun _ _ => rfl⟩

/-- A report whose code is not READ_FAULT leaves FAULT_ADDR. -/
theorem complete_err_faultAddr {e : CmdError} (h : e.code ≠ 4) (s : State) :
    (complete (.err e) s).regs.faultAddr = s.regs.faultAddr := by
  rcases complete_faultAddr_cases (.err e) s with ⟨a, ha⟩ | heq
  · cases ha
    exact absurd rfl h
  · exact heq

/-- Settles O36: every meaning is a completion, by whether its outcome is an error. -/
theorem errorsArePrecise : Obligations.ErrorsArePrecise := by
  intro i s herr
  obtain ⟨o, w, k, he, hw⟩ := exec_eq_complete_err_work i s
  refine ⟨_, he, by simp, by simp, ?_⟩
  cases o with
  | ok lo hi => exact .inl ⟨herr, rfl, rfl⟩
  | err e =>
    obtain ⟨hlo, hhi⟩ := complete_err_result e { s with work := w, draws := k }
    exact .inr ⟨rfl, e.one_le_code, e.code_le, hlo, hhi, (complete_work ..).trans (hw e rfl),
      fun hcode => complete_err_faultAddr hcode _⟩

/-! ### RANGE -/

theorem CmdError.code_eq_three_iff (e : CmdError) : e.code = 3 ↔ e = .range := by cases e <;> simp [CmdError.code]

theorem drawOutcome_ne_range (ps : Params) (l : Latch) (k : Nat) : drawOutcome ps l k ≠ .err .range := by
  rcases drawOutcome_cases ps l k with ⟨v, h⟩ | ⟨x, -, h⟩ <;> simp [h]

/-- COMPUTE over a buffer that ends at or below 2^64 completes with another outcome than RANGE. -/
theorem execCompute_ne_range {s : State} (hr : s.bufferInRange) :
    ∃ o w k, execCompute s = .next (complete o { s with work := w, draws := k }) ∧ o ≠ .err .range := by
  rcases execCompute_cases s with ⟨hr', -⟩ | ⟨-, ⟨-, h⟩ | ⟨-, ⟨a, -, h⟩ | ⟨w, -, ⟨-, h⟩ | ⟨-, h⟩⟩⟩⟩
  · exact absurd hr hr'.not_ge
  · exact ⟨_, s.work, s.draws + 1, h, drawOutcome_ne_range s.params s.latch s.draws⟩
  · exact ⟨_, s.work, s.draws, h, nofun⟩
  · exact ⟨_, w, s.draws + 1, h, nofun⟩
  · exact ⟨_, w, s.draws, h, nofun⟩

/-- A completion reports code 3 only with RANGE, or where it was on report before. -/
theorem complete_errCode_ne_three {o : CmdOutcome} {s : State} (ho : o ≠ .err .range) (hs : s.status.errCode ≠ 3) :
    (complete o s).status.errCode ≠ 3 := by
  cases o with
  | ok lo hi => exact hs
  | err e => exact fun h => ho (congrArg CmdOutcome.err (e.code_eq_three_iff.1 h))

/-- Settles O26: the range check comes before everything else, and no other way of COMPUTE answers RANGE. -/
theorem computePastTheTopIsRange : Obligations.ComputePastTheTopIsRange := by
  refine ⟨fun s htop => execCompute_of_past_top htop, fun s hr hs => ?_⟩
  obtain ⟨o, w, k, he, ho⟩ := execCompute_ne_range hr
  exact ⟨_, he, complete_errCode_ne_three ho hs⟩

end Sys2Proof.Machine
end

section
/-! The overrun flag (60_exceptions.md R187, R189): which moves set and clear OVR, and a CMD write that races a completion. -/

namespace Sys2Proof.Machine

/-! ### A host write to the window -/

/-- Expressions read the host's variables alone. -/
theorem Expr.eval_congr {h h' : HostAgent} (hv : h.vars = h'.vars) (e : Expr) : e.eval h = e.eval h' := by
  induction e with
  | lit v => rfl
  | var x => rw [Expr.eval, Expr.eval, HostAgent.var, HostAgent.var, hv]
  | xor a b iha ihb => rw [Expr.eval, Expr.eval, iha, ihb]
  | and a b iha ihb => rw [Expr.eval, Expr.eval, iha, ihb]
  | or a b iha ihb => rw [Expr.eval, Expr.eval, iha, ihb]
  | shl a b iha ihb => rw [Expr.eval, Expr.eval, iha, ihb]
  | shr a b iha ihb => rw [Expr.eval, Expr.eval, iha, ihb]

theorem Expr.eval_popStmt (e : Expr) (s : State) : e.eval (popStmt s).host = e.eval s.host :=
  Expr.eval_congr (h := (popStmt s).host) (h' := s.host) rfl e

theorem hostMove_wr {s : State} {r : Reg} {e : Expr} {rest : List HostStmt}
    (h : s.host.program = HostStmt.wr s.regBase r e :: rest) :
    hostMove s = .next (r.write (e.eval s.host) (popStmt s)) := by
  rw [hostMove_of_cons h, ← Expr.eval_popStmt]
  exact runStmt_wr (popStmt s) r e

/-! ### OVR -/

/-- OVR after a window write: it stays, a submission while BUSY sets it, or an acknowledgement with bit 3 clears it. -/
theorem windowWrite_ovr_cases (off : Nat) (v : Word) (s : State) :
    (windowWrite off v s).status.ovr = s.status.ovr ∨
      (off = Reg.offset .cmd ∧ s.seq = .busy ∧ windowWrite off v s = dropCmd s) ∨
      (off = Reg.offset .status ∧ v.getLsbD 3 = true ∧ windowWrite off v s = acknowledge v s) := by
  rcases windowWrite_cases off v s with h | ⟨ho, h⟩ | ⟨ho, h⟩ | ⟨-, h⟩ | ⟨r, h, -⟩
  · exact .inl (by rw [h])
  · rcases submitCmd_cases v s with ⟨hb, hs⟩ | ⟨-, hs⟩
    · exact .inr (.inl ⟨ho, hb, h.trans hs⟩)
    · exact .inl (by rw [h, hs]; rfl)
  · cases hv : v.getLsbD 3 with
    | true => exact .inr (.inr ⟨ho, rfl, h⟩)
    | false => exact .inl (by rw [h, acknowledge_status, Status.writeOneToClear, hv, Bool.not_false, Bool.and_true])
  · exact .inl (by rw [h])
  · exact .inl (by rw [h])

/-- OVR after the host's move: it stays, a CMD write while BUSY sets it, or a STATUS write with bit 3 clears it. -/
theorem hostMove_ovr_cases {s t : State} (h : hostMove s = .next t) :
    t.status.ovr = s.status.ovr ∨
      (s.seq = .busy ∧ t.seq = .busy ∧ t.status.ovr = true ∧
        ∃ e rest, s.host.program = .write (s.regBase + 0x08) 32 e :: rest) ∨
      (t.status.ovr = false ∧ ∃ e rest, s.host.program = .write (s.regBase + 0x0C) 32 e :: rest ∧
        (e.eval s.host).getLsbD 3 = true) := by
  rcases hostMove_cases s with ⟨-, he⟩ | ⟨st, rest, hp, he⟩
  · cases he.symm.trans h
    exact .inl rfl
  rcases runStmt_cases (he.symm.trans h) with
    ⟨hh, rfl, -⟩ | ⟨addr, width, e, off, rfl, ha, rfl⟩ | ⟨a, b, -, -, rfl⟩ | ⟨rs, -, rfl⟩
  · exact .inl rfl
  · obtain ⟨rfl, rfl, -⟩ := (admitAccess_ok_iff ..).1 ha
    rw [Expr.eval_popStmt]
    rcases windowWrite_ovr_cases off (e.eval s.host) (popStmt s) with hw | ⟨rfl, hb, hw⟩ | ⟨rfl, hv, hw⟩
    · exact .inl hw
    · exact .inr (.inl ⟨hb, by rw [hw]; exact hb, by rw [hw]; rfl, e, rest, hp⟩)
    · exact .inr (.inr ⟨by rw [hw, acknowledge_status, Status.writeOneToClear, hv, Bool.not_true, Bool.and_false], e, rest, hp, hv⟩)
  · exact .inl rfl
  · exact .inl rfl

/-- The engine leaves OVR and the host (10_state.md R44). -/
theorem engineMove_ovr_host {s t : State} (h : engineMove s = .next t) :
    t.status.ovr = s.status.ovr ∧ t.host = s.host := by
  rcases engineMove_cases s with ⟨-, he⟩ | ⟨-, o, w, k, he⟩
  · cases he.symm.trans h
    exact ⟨rfl, rfl⟩
  · cases he.symm.trans h
    simp

/-- Settles O51: of the agents' moves reset clears OVR, the engine's leaves it, and the host's write says what it does. -/
theorem overrunIsSticky : Obligations.OverrunIsSticky := by
  intro s t hs
  obtain ⟨-, ⟨-, rfl⟩ | ⟨hn, rfl⟩ | ⟨-, hm⟩ | ⟨hn, hm⟩⟩ := step_cases hs
  · simp +contextual
  · exact ⟨fun _ _ => .inl hn, nofun⟩
  · simp +contextual [(engineMove_ovr_host hm).1]
  · rcases hostMove_ovr_cases hm with hkeep | ⟨hb, htb, hset, hp⟩ | ⟨hclear, hp⟩
    · simp +contextual [hkeep]
    · exact ⟨fun _ h' => absurd (hset.symm.trans h') nofun, fun _ _ => ⟨hn, hb, htb, hp⟩⟩
    · exact ⟨fun _ _ => .inr ⟨hn, hp⟩, fun _ h' => absurd (hclear.symm.trans h') nofun⟩

/-! ### The race -/

theorem hostMove_cmd_of_busy {s : State} {e : Expr} {rest : List HostStmt} (hb : s.seq = .busy)
    (h : s.host.program = HostStmt.wr s.regBase .cmd e :: rest) : hostMove s = .next (dropCmd (popStmt s)) := by
  rw [hostMove_wr h, write_cmd_of_busy (s := popStmt s) hb]

theorem hostMove_cmd_of_idle {s : State} {e : Expr} {rest : List HostStmt} (hi : s.seq = .idle)
    (h : s.host.program = HostStmt.wr s.regBase .cmd e :: rest) :
    hostMove s = .next (acceptCmd (e.eval s.host) (popStmt s)) := by
  rw [hostMove_wr h, write_cmd_of_idle (s := popStmt s) hi]

/-- Settles O54: the CMD write finds the block BUSY before the completion and IDLE after it. -/
theorem racingCmdWriteHasBothOutcomes : Obligations.RacingCmdWriteHasBothOutcomes := by
  intro s e rest ts hp hb hprog
  constructor
  · rw [step_of_nextAgent (s := { s with turns := .host :: ts }) hp rfl]
    exact ⟨_, hostMove_cmd_of_busy (s := { s with turns := ts }) hb hprog, hb, rfl, rfl⟩
  · rw [step_of_nextAgent (s := { s with turns := .engine :: .host :: ts }) hp rfl]
    obtain ⟨t, hm, hidle, hdone, hturns⟩ := engineMove_completes (s := { s with turns := .host :: ts }) hb
    obtain ⟨hovr, hhost⟩ := engineMove_ovr_host hm
    obtain ⟨hparams, hbase, -⟩ := engineMove_frame hm
    have hprog' : t.host.program = HostStmt.wr t.regBase .cmd e :: rest := by rwa [hhost, hbase]
    have hstep : step t = hostMove (popTurn t) := step_of_nextAgent (by rwa [hparams]) (nextAgent_cons hturns)
    rw [hostMove_cmd_of_idle (s := popTurn t) hidle hprog'] at hstep
    exact ⟨t, _, hm, hdone, hstep, rfl, hovr, by rw [acceptCmd_latch, popTurn_host, hhost]⟩

end Sys2Proof.Machine
end

section
/-! Operand writes while a command runs (70_reset_and_hazards.md R217): a completion reads the latch and no register, and it
writes RESULT and FAULT_ADDR alone, so a host write to an operand register commutes with it. -/

namespace Sys2Proof.Machine
open Sys2Proof.Claims

/-! ### The write -/

/-- A write to an operand register changes the register file alone. -/
theorem write_operand_eq_with_regs {r : Reg} (hr : r ∈ operandRegs) (v : Word) (s : State) :
    r.write v s = { s with regs := (r.write v s).regs } :=
  congrArg (fun t : State => { t with regs := (r.write v s).regs }) (write_operand_frame hr v s)

theorem write_operand_latch {r : Reg} (hr : r ∈ operandRegs) (v : Word) (s : State) : (r.write v s).latch = s.latch :=
  (congrArg State.latch (write_operand_frame hr v s) :)

theorem write_operand_seq {r : Reg} (hr : r ∈ operandRegs) (v : Word) (s : State) : (r.write v s).seq = s.seq :=
  (congrArg State.seq (write_operand_frame hr v s) :)

theorem write_operand_with_work {r : Reg} (hr : r ∈ operandRegs) (v : Word) (s : State) (w : Working) (k : Nat) :
    r.write v { s with work := w, draws := k } = { s with regs := (r.write v s).regs, work := w, draws := k } := by
  rcases operandReg_cases hr with rfl | rfl | rfl | rfl | rfl | rfl | rfl | rfl <;> rfl

/-- The registers that a completion writes are no operand registers. -/
theorem write_operand_complete {r : Reg} (hr : r ∈ operandRegs) (v : Word) (o : CmdOutcome) (s : State) :
    r.write v (complete o s) = complete o (r.write v s) := by
  rcases operandReg_cases hr with rfl | rfl | rfl | rfl | rfl | rfl | rfl | rfl <;> cases o with
    | ok lo hi => rfl
    | err e => cases e <;> rfl

/-! ### The completion -/

/-- `exec_eq_complete`, whatever the registers hold: no meaning reads them (30_encoding.md R83). -/
theorem exec_with_regs (i : Instr) (s : State) (g : Regs) :
    ∃ o w k, exec i s = .next (complete o { s with work := w, draws := k }) ∧
      exec i { s with regs := g } = .next (complete o { s with regs := g, work := w, draws := k }) := by
  cases i with
  | compute =>
    simp only [exec, execCompute, computeDone]
    split
    · exact ⟨_, s.work, s.draws, rfl, rfl⟩
    · split
      · exact ⟨_, s.work, s.draws + 1, rfl, rfl⟩
      · split
        · next w _ =>
          split
          · exact ⟨_, w, s.draws + 1, rfl, rfl⟩
          · exact ⟨_, w, s.draws, rfl, rfl⟩
        · exact ⟨_, s.work, s.draws, rfl, rfl⟩
  | step1 => exact ⟨_, s.work, s.draws, rfl, rfl⟩
  | step2 => exact ⟨_, s.work, s.draws, rfl, rfl⟩
  | step4 => exact ⟨_, s.work, s.draws, rfl, rfl⟩
  | step8 => exact ⟨_, s.work, s.draws, rfl, rfl⟩
  | clmul => exact ⟨_, s.work, s.draws, rfl, rfl⟩
  | romrd => exact ⟨_, s.work, s.draws, rfl, rfl⟩
  | combine => exact ⟨_, s.work, s.draws, rfl, rfl⟩

theorem exec_write_operand {r : Reg} (hr : r ∈ operandRegs) (v : Word) {i : Instr} {s t : State}
    (h : exec i s = .next t) : exec i (r.write v s) = .next (r.write v t) := by
  obtain ⟨o, w, k, hs, hg⟩ := exec_with_regs i s (r.write v s).regs
  cases hs.symm.trans h
  rw [write_operand_complete hr, write_operand_with_work hr v s w k, ← hg, ← write_operand_eq_with_regs hr v s]

/-- An illegal word completes with ILLEGAL_CMD, which commutes as the commands' own completions do. -/
theorem engineMove_write_operand {r : Reg} (hr : r ∈ operandRegs) (v : Word) {s t : State}
    (h : engineMove s = .next t) : engineMove (r.write v s) = .next (r.write v t) := by
  have hseq : (r.write v s).seq = s.seq := write_operand_seq hr v s
  have hcmd : (r.write v s).latch.cmd = s.latch.cmd := congrArg Latch.cmd (write_operand_latch hr v s)
  cases hs : s.seq with
  | idle =>
    cases (engineMove_of_idle hs).symm.trans h
    exact engineMove_of_idle (hseq.trans hs)
  | busy =>
    have hs' : (r.write v s).seq = .busy := hseq.trans hs
    cases hd : decodeWord s.latch.cmd with
    | error e =>
      cases (engineMove_of_decode_error hs hd).symm.trans h
      rw [engineMove_of_decode_error hs' (hcmd ▸ hd)]
      exact congrArg _ (write_operand_complete hr v (.err .illegalCmd) s).symm
    | ok i =>
      rw [engineMove_of_decode hs' (hcmd ▸ hd)]
      exact exec_write_operand hr v ((engineMove_of_decode hs hd).symm.trans h)

/-- Settles O37: the write changes the register file alone, which no completion reads. -/
theorem operandWritesDoNotTouchTheCommand : Obligations.OperandWritesDoNotTouchTheCommand := fun s _ v hr =>
  ⟨write_operand_latch hr v s, write_operand_seq hr v s, fun _ _ => exec_write_operand hr v,
    fun _ => engineMove_write_operand hr v⟩

end Sys2Proof.Machine
end

section
/-! Reset (70_reset_and_hazards.md R210, 10_state.md R47): what the registers read after it. -/

namespace Sys2Proof.Machine

theorem statusWord_blockReset (s : State) : (blockReset s).statusWord = 0 :=
  calc (blockReset s).statusWord = State.reset.statusWord := rfl
    _ = 0 := by decide

/-- ID and PARAM do not come from what reset clears; every other register reads 0 after it. -/
theorem read_blockReset {r : Reg} (hid : r ≠ .id) (hparam : r ≠ .param) (s : State) : r.read (blockReset s) = 0 := by
  cases r with
  | id => exact absurd rfl hid
  | param => exact absurd rfl hparam
  | status => exact statusWord_blockReset s
  | _ => rfl

/-- Settles O46: the step is the reset input over the state with its turn taken, and `State.reset` is its own reset. -/
theorem resetClearsTheBlock : Obligations.ResetClearsTheBlock := by
  refine ⟨fun s hp hn => ⟨blockReset (popTurn s), step_of_nextAgent hp hn, ?_⟩, ?_⟩
  · exact ⟨fun _ hid hparam => read_blockReset hid hparam _, rfl, rfl, rfl, rfl, rfl, rfl, rfl, rfl, rfl⟩
  · exact ⟨fun _ hid hparam => read_blockReset hid hparam State.reset, rfl, rfl, rfl⟩

end Sys2Proof.Machine
end
